-- ==== Sys2Proof/Config.lean ====
section
/-! DEFINITION. What is fixed when the block is built (spec/00_scope.md R5 to R8, spec/10_state.md R32), and the
free values: constants with no body, so that no proof can see what they are (R12, `draw`). -/

namespace Sys2Proof

/-- The parameter CAP, the frame buffer's capacity in bytes: at least 3 (R5, decision D27). The state, every operation
and every meaning take it. -/
structure Capacity where
  bytes : Nat
  atLeast3 : 3 ≤ bytes
  deriving DecidableEq, Repr

/-- W, the width of RCOUNT, FLEN and EV.len: the least number of bits that holds `CAP` (R6). -/
def Capacity.width (C : Capacity) : Nat := Nat.log2 C.bytes + 1

/-- The spec's value of CAP (R5): the block that `step` runs. Log 2. -/
def Config.capacity : Capacity := ⟨256, by decide⟩

/-- CAP of the block that `step` runs. -/
abbrev Config.cap : Nat := Config.capacity.bytes

/-- A count register, W bits wide (R6, R25, R28). -/
abbrev Count (C : Capacity := Config.capacity) := BitVec C.width

/-- The two values the open parameter STR_ROOM may take (R7). -/
inductive StrRoom where
  /-- The terminator takes a place in the output buffer: at most `max_len - 1` characters. -/
  | maxlenMinus1
  /-- The terminator is extra: at most `max_len` characters. -/
  | maxlen
  deriving DecidableEq, Repr, Inhabited

/-- STR_ROOM, an OPEN parameter (R7, decision D14): no value may be assumed. Log 3. -/
opaque Config.strRoom : StrRoom

/-- KPA_ASC_OFFSET, an OPEN parameter (R8, decision D23): an offset that fits a command's operand `a`. Log 4. -/
opaque Config.kpaAscOffset : BitVec 16

/-- `draw8()` (R12): the byte that the draw site `k` of the decoder step numbered `n` gets. Log 5. -/
opaque Config.draw8 (n k : Nat) : BitVec 8

/-- `draw32()` (R12), for D.res (R56, R155, R157). Log 5. -/
opaque Config.draw32 (n : Nat) : BitVec 32

/-- `draw1()` (R12), for D.ok (R56, R155, R157). Log 5. -/
opaque Config.draw1 (n : Nat) : Bool

/-- What the byte of BUF at offset `i` holds when nothing has written it since reset (R26, R35): any value. Log 6. -/
opaque Config.bufInit (n i : Nat) : BitVec 8

/-- The bit PKIND holds after a reset step (R24, R35, R220): any value. Log 7. -/
opaque Config.resetKindBit (n : Nat) : Bool

end Sys2Proof
end

