-- ==== Sys2Proof/Word.lean ====
section
/-! DEFINITION. The words at the block's input ports (spec/30_encoding.md R70) and the byte type. -/

namespace Sys2Proof

/-- One byte: of the input stream or of the frame buffer (R10). -/
abbrev Byte := BitVec 8

/-- A decoder command word, `{b, a, rsv, op}` (R92). -/
abbrev CmdWord := BitVec 48

/-- What the host can present at an input port: a received byte (format RXBYTE) or a decoder command
(format DCMD). R70 names these two formats and no other. -/
inductive PortWord where
  | rxByte (b : Byte)
  | dcmd (w : CmdWord)
  deriving DecidableEq, Repr

end Sys2Proof
end

