-- ==== Sys2Proof/Machine/State.lean ====
section
/-! DEFINITION. The machine's state (spec/10_state.md R20), the host's inputs, and the reasons a step can stop. -/

namespace Sys2Proof.Machine

/-- PSTATE (R23). -/
inductive PState where
  | idle
  | collect
  | collectSysex
  deriving DecidableEq, Repr

/-- PKIND (R24): Program Change or Control Change. -/
inductive PKind where
  | pc
  | cc
  deriving DecidableEq, Repr

/-- EV.kind (R27). -/
inductive EvKind where
  | none
  | pc
  | cc
  | as
  | sysex
  deriving DecidableEq, Repr

/-- EV, the event output of a framer step (R27). A field that the kind does not use is 0. -/
structure Event (C : Capacity := Config.capacity) where
  kind : EvKind
  ch : BitVec 4
  d1 : BitVec 7
  d2 : BitVec 7
  len : Count C
  deriving DecidableEq, Repr

/-- The outcome names of R192, which a model may record and no port shows. -/
inductive Cause where
  /-- Abort: a status byte while PSTATE = COLLECT (R108). -/
  | statusInMsg
  /-- Abort: any byte while PSTATE = COLLECT_SYSEX and RCOUNT = CAP (R109). -/
  | overflow
  /-- Abort: a status byte other than `0xF7` while PSTATE = COLLECT_SYSEX (R112). -/
  | statusInSysex
  /-- Drop: a data byte while PSTATE = IDLE (R101). -/
  | dropData
  /-- Drop: a status byte of the class UNK while PSTATE = IDLE (R106). -/
  | dropUnknown
  deriving DecidableEq, Repr

/-- What the host does in one step (R231): it presents a word at a port, or asserts RESET (R220). -/
inductive HostInput where
  | word (p : PortWord)
  | reset
  deriving DecidableEq, Repr

/-- BUF as the bytes written so far: offset and byte, offsets strictly rising. An unlisted offset holds no byte that
the model knows (R26, log 6). -/
abbrev Memory := List Host.Cell

/-- The state of the block of a given capacity (R20), and with it the host's schedule and two fields of the model's own.
CAP is configuration, no field (R20, R32): `State` alone is the state of the block with the spec's CAP = 256. -/
structure State (C : Capacity := Config.capacity) where
  /-- PSTATE, R23. -/
  pstate : PState
  /-- PKIND, R24. -/
  pkind : PKind
  /-- RCOUNT, R25. -/
  rcount : Count C
  /-- BUF, R26. -/
  buf : Memory
  /-- FLEN, R28. -/
  flen : Count C
  /-- FVALID, R29. -/
  fvalid : Bool
  /-- EV, R27: the event output of the step just taken. No step keeps an earlier step's event (log 8). -/
  ev : Event C
  /-- D.res, R31. -/
  dres : BitVec 32
  /-- D.ok, R31. -/
  dok : Bool
  /-- The host's schedule (R9, R231): what it will do in the steps to come, the next first. The head is what stands at
  `rx_byte`, at `D.op`, `D.a`, `D.b` (R30) or at RESET in the next step (log 1). -/
  inputs : List HostInput
  /-- The model's own: the outcome name of the last framer step (R192, log 9). No rule reads it. -/
  cause : Option Cause
  /-- The model's own: the number that the free values are applied to (R12, log 5). -/
  draws : Nat
  deriving DecidableEq, Repr

/-- EV with kind NONE and every field 0 (R27, R35). -/
def Event.empty {C : Capacity} : Event C := ⟨.none, 0, 0, 0, 0⟩

/-- Why the machine stops with a fault. -/
inductive Fault where
  /-- Raised by a framer rule that stores a byte at offset RCOUNT when RCOUNT >= CAP: BUF has no such offset (R50).
  Safe: no state that meets the invariant R36 reaches it, since R109 aborts first. Log 11. -/
  | bufOffset
  deriving DecidableEq, Repr

/-- Why the machine has no meaning for what it was asked. -/
inductive Refusal where
  /-- Raised by an arm of `exec` that has no meaning yet: none. Safe. -/
  | notModelled (mnemonic : String)
  /-- Raised by a decoder step on a command whose `op` is reserved (R94, R195). Safe: the spec itself refuses it. -/
  | reservedOp (op : BitVec 4)
  /-- Raised by a decoder step on a command whose `rsv` is not 0 (R94, R195). Safe: the spec itself refuses it. -/
  | reservedField (rsv : BitVec 4)
  deriving DecidableEq, Repr

/-- The block of a given capacity right after reset (R35), with no host input pending. PKIND is unspecified there; `pc` is
DESIGN CHOICE, log 7. BUF lists nothing. -/
def State.resetAt (C : Capacity) : State C where
  pstate := .idle
  pkind := .pc
  rcount := 0
  buf := []
  flen := 0
  fvalid := false
  ev := Event.empty
  dres := 0
  dok := false
  inputs := []
  cause := none
  draws := 0

/-- The machine right after reset (R35). -/
def State.reset : State := State.resetAt Config.capacity

end Sys2Proof.Machine
end

