-- ==== Sys2Proof/Machine/Ops.lean ====
section
/-! DEFINITION. The named operations every meaning is built from: BUF (spec/20_memory.md), the framer's prologue, its
stores, its one error action abort (spec/60_exceptions.md R191), and the decoder's guarded read and answer. -/

namespace Sys2Proof.Machine

variable {C : Capacity}

/-- What one step of the block of a given capacity answers. -/
abbrev Result (C : Capacity := Config.capacity) := Host.Outcome (State C) Fault Refusal

/-- The byte that was written last at offset `i`, if one was. -/
def Memory.read : Memory → Nat → Option Byte
  | [], _ => none
  | (a, v) :: m, i => if i = a then some v else Memory.read m i

/-- Writes one byte, keeping the offsets strictly rising. -/
def Memory.write : Memory → Nat → Byte → Memory
  | [], i, v => [(i, v)]
  | (a, u) :: m, i, v =>
    if i < a then (i, v) :: (a, u) :: m
    else if i = a then (i, v) :: m
    else (a, u) :: Memory.write m i v

/-- The canonical form of a memory: offsets strictly rising. An unlisted offset reads as no value, so no entry can
repeat what it reads as. -/
def Memory.wf : Memory → Bool
  | [] => true
  | [_] => true
  | (a, _) :: (b, v) :: m => decide (a < b) && Memory.wf ((b, v) :: m)

/-- `BUF[i]` (R12): the byte written there, or, where nothing was written since reset, any value (R26, log 6). -/
def bufAt (s : State C) (i : Nat) : Byte := (s.buf.read i).getD (Config.bufInit s.draws i)

/-- `ByteAt(i)` (R55), at the draw site `k` of the step. -/
def byteAt (s : State C) (k i : Nat) : Byte :=
  if s.fvalid = true ∧ i < s.flen.toNat then bufAt s i else Config.draw8 s.draws k

/-- An event is valid for the step that produced it only and is not kept across steps (R27): EV is NONE, as of a step
that emits nothing (R117, log 8). -/
def noEvent (s : State C) : State C := { s with ev := Event.empty }

/-- The prologue of every framer step (R100). -/
def prologue (s : State C) : State C := { noEvent s with fvalid := false, cause := none }

/-- A drop (R192): the byte has no effect beyond the prologue. The outcome's name is recorded (log 9). -/
def drop (c : Cause) (s : State C) : State C := { s with cause := some c }

/-- `abort(cause)` (R191), the block's only error entry: back to IDLE, the partial message dropped, nothing saved or
surfaced. The cause is recorded for observation only (R192, log 9). PKIND, unspecified in IDLE (R24), keeps its value:
DESIGN CHOICE, log 20. -/
def abort (c : Cause) (s : State C) : State C := { s with pstate := .idle, rcount := 0, cause := some c }

/-- The transition into IDLE at the end of a message (R25, R107, R111). PKIND, unspecified in IDLE (R24), keeps its value:
DESIGN CHOICE, log 20. -/
def toIdle (s : State C) : State C := { s with pstate := .idle, rcount := 0 }

/-- `emit E` (R12): E becomes the step's event output. -/
def emit (e : Event C) (s : State C) : State C := { s with ev := e }

/-- A status byte opens a message: `BUF[0] <- b ; RCOUNT <- 1 ; PSTATE <- p` (R102, R103, R104). PKIND is
the caller's to write; in COLLECT_SYSEX, where it is unspecified (R24), it keeps its value: DESIGN CHOICE, log 20. -/
def openMessage (p : PState) (b : Byte) (s : State C) : State C :=
  { s with buf := s.buf.write 0 b, rcount := 1, pstate := p }

/-- `BUF[RCOUNT] <- b`, and then `k` (R107, R110, R111). BUF has no offset CAP or above (R50, log 11). -/
def storeAtCount (b : Byte) (s : State C) (k : State C → Result C) : Result C :=
  if s.rcount.toNat < C.bytes then k { s with buf := s.buf.write s.rcount.toNat b } else .fault .bufOffset

/-- `RCOUNT <- RCOUNT + 1` (R107, R110). -/
def countUp (s : State C) : State C := { s with rcount := s.rcount + 1 }

/-- `FLEN <- n ; FVALID <- 1` (R111). -/
def recordFrame (n : Count C) (s : State C) : State C := { s with flen := n, fvalid := true }

/-- What a decoder step gives: D.res and D.ok. -/
abbrev Answer := BitVec 32 × Bool

/-- `D.res <- draw32() ; D.ok <- draw1()` (R56, R155, R157). -/
def drawAnswer (s : State C) : Answer := (Config.draw32 s.draws, Config.draw1 s.draws)

/-- The "not found" result (R193). -/
def notFound : Answer := (0, false)

/-- The end of a decoder step: it writes D.res and D.ok and no other register (R30, R140), and it emits no event (R27,
log 8). The step's draw sites are used up (log 5). -/
def answer (s : State C) (r : Answer) : Result C :=
  .next { noEvent s with dres := r.1, dok := r.2, draws := s.draws + 1 }

/-- A decoder step (R140): outside the valid frame window the result is draws (R56). -/
def decoderStep (s : State C) (r : Answer) : Result C := answer s (if s.fvalid then r else drawAnswer s)

/-- A reset step (R220): every piece of state at its reset value (R35). BUF and PKIND become unspecified: nothing is
listed, and PKIND takes a free value (log 7). The host's schedule is not the block's to reset (log 1). -/
def resetStep (s : State C) : State C :=
  { State.resetAt C with
    pkind := if Config.resetKindBit s.draws then .cc else .pc
    inputs := s.inputs
    draws := s.draws + 1 }

end Sys2Proof.Machine
end

