-- ==== Sys2Proof/Machine/Operands.lean ====
section
/-! DEFINITION. Every field the decoder assembles out of frame bytes (spec/30_encoding.md R80 to R84): masks and
big-endian concatenations. -/

namespace Sys2Proof.Machine

variable {C : Capacity}

/-- The low 7 bits of a byte: `byte & 0x7F` (R80). -/
def low7 (b : Byte) : BitVec 7 := b.extractLsb' 0 7

/-- The low 4 bits of a byte: `byte & 0x0F` (R82). -/
def low4 (b : Byte) : BitVec 4 := b.extractLsb' 0 4

/-- A 14-bit field out of its two bytes, the more significant first (R81). -/
def field14 (b0 b1 : Byte) : BitVec 14 := low7 b0 ++ low7 b1

/-- A "31-bit" field out of its five bytes, 32 bits wide (R82): the first byte gives 4 bits, the others 7. -/
def field31 (b0 b1 b2 b3 b4 : Byte) : BitVec 32 := low4 b0 ++ low7 b1 ++ low7 b2 ++ low7 b3 ++ low7 b4

/-- A manufacturer ID out of its three bytes (R84). -/
def field24 (b0 b1 b2 : Byte) : BitVec 24 := b0 ++ b1 ++ b2

/-- `F7(o)` (R80), at draw site 0. -/
def f7At (s : State C) (o : Nat) : BitVec 7 := low7 (byteAt s 0 o)

/-- `F14(o)` (R81), at draw sites 0 and 1. -/
def f14At (s : State C) (o : Nat) : BitVec 14 := field14 (byteAt s 0 o) (byteAt s 1 (o + 1))

/-- `F31(o)` (R82), at draw sites 0 to 4. -/
def f31At (s : State C) (o : Nat) : BitVec 32 :=
  field31 (byteAt s 0 o) (byteAt s 1 (o + 1)) (byteAt s 2 (o + 2)) (byteAt s 3 (o + 3)) (byteAt s 4 (o + 4))

/-- `MFR` (R84): the frame's bytes 1 to 3, at draw sites 0 to 2. -/
def mfrOf (s : State C) : BitVec 24 := field24 (byteAt s 0 1) (byteAt s 1 2) (byteAt s 2 3)

/-- `BUF[0] ^ … ^ BUF[n-1]`, 8 bits (R147). -/
def xorBelow (s : State C) : Nat → Byte
  | 0 => 0
  | n + 1 => xorBelow s n ^^^ bufAt s n

/-- The scan of R161 from offset `o`, over at most `room` bytes: how many bytes come before the first `0x00`. -/
def scanString (s : State C) (o : Nat) : Nat → Nat
  | 0 => 0
  | room + 1 => if bufAt s o = 0x00#8 then 0 else scanString s (o + 1) room + 1

end Sys2Proof.Machine
end

