-- ==== Sys2Proof/Machine/Flags.lean ====
section
/-! DEFINITION. The conditions the rules branch on and D.ok reports (spec/10_state.md R33), the lengths of messages
(R24), and the codes of the enumerated registers (R23, R24, R27). -/

namespace Sys2Proof.Machine

variable {C : Capacity}

/-- `LEN(kind)`, a message's fixed length in bytes (R24, R75). -/
def PKind.len : PKind → Nat
  | .pc => 2
  | .cc => 3

/-- `RCOUNT == CAP` (R109). -/
def countFull (s : State C) : Bool := s.rcount.toNat == C.bytes

/-- `RCOUNT == LEN(PKIND)` (R107). -/
def messageComplete (s : State C) : Bool := s.rcount.toNat == s.pkind.len

/-- Whether a field of `w` bytes at offset `o` lies inside the recorded frame: `o + w <= FLEN` (R158, R159). -/
def fieldFits (s : State C) (o w : Nat) : Bool := decide (o + w ≤ s.flen.toNat)

/-- Whether FLEN is long enough for the effect-block count to be defined: `FLEN >= 6` (R155, decision D13). -/
def hasBlockHeader (s : State C) : Bool := decide (6 ≤ s.flen.toNat)

/-- The effect-block count: `(FLEN - 6) div 5` (R87, R155). -/
def blockCount (s : State C) : Nat := (s.flen.toNat - 6) / 5

/-- The limit of R161: how many characters a string may count for a given `max_len` (R7). -/
def stringLimit : StrRoom → Nat → Nat
  | .maxlenMinus1, m => m - 1
  | .maxlen, m => m

/-- Whether `BUF[o]` lies before the frame's last byte and is `0x00`: D.ok of R161. -/
def terminatorAt (s : State C) (o : Nat) : Bool := decide (o + 1 < s.flen.toNat) && decide (bufAt s o = 0x00#8)

/-- The code of PSTATE (R23). -/
def PState.code : PState → BitVec 2
  | .idle => 0
  | .collect => 1
  | .collectSysex => 2

/-- The code of PKIND (R24). -/
def PKind.code : PKind → BitVec 1
  | .pc => 0
  | .cc => 1

/-- The code of EV.kind (R27). -/
def EvKind.code : EvKind → BitVec 3
  | .none => 0
  | .pc => 1
  | .cc => 2
  | .as => 3
  | .sysex => 4

end Sys2Proof.Machine
end

