-- ==== Sys2Proof/Machine/Block.lean ====
section
/-! DEFINITION. The AxeFx effect-block operations (spec/41_decoder.md R155, R157). -/

namespace Sys2Proof.Machine

variable {C : Capacity}

/-- BLKCNT (R155): the number of effect-block chunks; draws when FLEN < 6 (decision D13). -/
def execBlkcnt (s : State C) : Result C :=
  decoderStep s (if hasBlockHeader s then (BitVec.ofNat 32 (blockCount s), true) else drawAnswer s)

/-- BLKOFF (R157): the offset of chunk `a`, or not found; draws when FLEN < 6. -/
def execBlkoff (a : BitVec 16) (s : State C) : Result C :=
  decoderStep s <|
    if hasBlockHeader s then
      if a.toNat < blockCount s then (BitVec.ofNat 32 (6 + 5 * a.toNat), true) else notFound
    else drawAnswer s

end Sys2Proof.Machine
end

