-- ==== Sys2Proof/Machine/Checksum.lean ====
section
/-! DEFINITION. The AxeFx checksum validator (spec/41_decoder.md R147). -/

namespace Sys2Proof.Machine

variable {C : Capacity}

/-- The checksum computed over the frame: the XOR of its bytes 0 to FLEN-3, in 7 bits (R86, R147). -/
def computedChecksum (s : State C) : Byte := xorBelow s (s.flen.toNat - 2) &&& 0x7F#8

/-- XORCK (R147): the computed checksum, and whether the byte at FLEN-2 equals it. FLEN >= 2 while FVALID = 1 (R36);
in a state where it is not, the result is draws (log 12). -/
def execXorck (s : State C) : Result C :=
  decoderStep s <|
    if 2 ≤ s.flen.toNat then
      ((computedChecksum s).setWidth 32, decide (computedChecksum s = bufAt s (s.flen.toNat - 2)))
    else drawAnswer s

end Sys2Proof.Machine
end

