-- ==== Sys2Proof/Machine/Collect.lean ====
section
/-! DEFINITION. The framer's rules in the state COLLECT (spec/40_framer.md R107, R108), and the completion of
a Program Change and of a Control Change (R113, R114). -/

namespace Sys2Proof.Machine

variable {C : Capacity}

/-- The event of `CompletePC()` (R113). -/
def pcEvent (s : State C) : Event C :=
  { Event.empty with kind := .pc, ch := low4 (bufAt s 0), d1 := low7 (bufAt s 1) }

/-- The event of `CompleteCC()` (R114). -/
def ccEvent (s : State C) : Event C :=
  { Event.empty with kind := .cc, ch := low4 (bufAt s 0), d1 := low7 (bufAt s 1), d2 := low7 (bufAt s 2) }

/-- The event of a completed message of the kind that PKIND names (R107). -/
def messageEvent (s : State C) : Event C :=
  match s.pkind with
  | .pc => pcEvent s
  | .cc => ccEvent s

/-- COL.DATA (R107): a data byte is appended to the open message, which completes at its fixed length. -/
def execColData (d : BitVec 7) (s : State C) : Result C :=
  storeAtCount (0#1 ++ d) (prologue s) fun t =>
    let t := countUp t
    if messageComplete t then .next (toIdle (emit (messageEvent t) t)) else .next t

/-- COL.STATUS (R108): a status byte inside a message aborts it and is consumed (decision D4). -/
def execColStatus (_b : Byte) (s : State C) : Result C := .next (abort .statusInMsg (prologue s))

end Sys2Proof.Machine
end

