-- ==== Sys2Proof/Machine/Field.lean ====
section
/-! DEFINITION. The decoder's field extracts (spec/41_decoder.md R142 to R146) and GETLEN (R148). -/

namespace Sys2Proof.Machine

variable {C : Capacity}

/-- GETB (R142): one raw byte at offset `a`. -/
def execGetb (a : BitVec 16) (s : State C) : Result C := decoderStep s ((byteAt s 0 a.toNat).setWidth 32, true)

/-- GET7 (R143): a 7-bit field at offset `a`. -/
def execGet7 (a : BitVec 16) (s : State C) : Result C := decoderStep s ((f7At s a.toNat).setWidth 32, true)

/-- GET14 (R144): a 14-bit field at offset `a`. -/
def execGet14 (a : BitVec 16) (s : State C) : Result C := decoderStep s ((f14At s a.toNat).setWidth 32, true)

/-- GET31 (R145): a 31-bit field, 32 bits wide, at offset `a`. -/
def execGet31 (a : BitVec 16) (s : State C) : Result C := decoderStep s (f31At s a.toNat, true)

/-- MFREQ (R146): the frame's manufacturer ID, and whether it equals `b`. -/
def execMfreq (b : BitVec 24) (s : State C) : Result C :=
  decoderStep s ((mfrOf s).setWidth 32, decide (mfrOf s = b))

/-- GETLEN (R148): the recorded frame length. -/
def execGetlen (s : State C) : Result C := decoderStep s (s.flen.setWidth 32, true)

end Sys2Proof.Machine
end

