-- ==== Sys2Proof/Machine/Idle.lean ====
section
/-! DEFINITION. The framer's rules in the state IDLE (spec/40_framer.md R101 to R106). -/

namespace Sys2Proof.Machine

variable {C : Capacity}

/-- IDLE.DATA (R101): a data byte with no open message is dropped. -/
def execIdleData (_d : BitVec 7) (s : State C) : Result C := .next (drop .dropData (prologue s))

/-- IDLE.PC (R102): a Program Change status byte `0xC0 | ch` opens a 2-byte message. -/
def execIdlePc (ch : BitVec 4) (s : State C) : Result C :=
  .next (openMessage .collect (0xC#4 ++ ch) { prologue s with pkind := .pc })

/-- IDLE.CC (R103): a Control Change status byte `0xB0 | ch` opens a 3-byte message. -/
def execIdleCc (ch : BitVec 4) (s : State C) : Result C :=
  .next (openMessage .collect (0xB#4 ++ ch) { prologue s with pkind := .cc })

/-- IDLE.SOX (R104): `0xF0` opens a SysEx frame. PKIND keeps its value there: DESIGN CHOICE, log 20. -/
def execIdleSox (s : State C) : Result C := .next (openMessage .collectSysex 0xF0#8 (prologue s))

/-- IDLE.AS (R105): `0xFE` completes an Active Sense message at once; BUF is not written (decision D7). -/
def execIdleAs (s : State C) : Result C := .next (emit { Event.empty with kind := .as } (prologue s))

/-- IDLE.UNK (R106): any other status byte is dropped. -/
def execIdleUnk (_b : Byte) (s : State C) : Result C := .next (drop .dropUnknown (prologue s))

end Sys2Proof.Machine
end

