-- ==== Sys2Proof/Machine/Multi.lean ====
section
/-! DEFINITION. The Kemper indexed readers with their bound check (spec/41_decoder.md R158, R159). -/

namespace Sys2Proof.Machine

variable {C : Capacity}

/-- The offset of the `i`-th 14-bit value (R90, R158, decision D12). -/
def multi14Offset (i : Nat) : Nat := 10 + 2 * i

/-- The offset of the `i`-th 31-bit value (R90, R159, decision D12). -/
def multi31Offset (i : Nat) : Nat := 13 + 5 * i

/-- MULTI14 (R158): the `a`-th 14-bit value, or not found. -/
def execMulti14 (a : BitVec 16) (s : State C) : Result C :=
  let o := multi14Offset a.toNat
  decoderStep s <|
    if fieldFits s o 2 then ((field14 (bufAt s o) (bufAt s (o + 1))).setWidth 32, true) else notFound

/-- MULTI31 (R159): the `a`-th 31-bit value, or not found. -/
def execMulti31 (a : BitVec 16) (s : State C) : Result C :=
  let o := multi31Offset a.toNat
  decoderStep s <|
    if fieldFits s o 5 then
      (field31 (bufAt s o) (bufAt s (o + 1)) (bufAt s (o + 2)) (bufAt s (o + 3)) (bufAt s (o + 4)), true)
    else notFound

end Sys2Proof.Machine
end

