-- ==== Sys2Proof/Machine/Sysex.lean ====
section
/-! DEFINITION. The framer's rules in the state COLLECT_SYSEX (spec/40_framer.md R109 to R112). -/

namespace Sys2Proof.Machine

variable {C : Capacity}

/-- SX.OVERFLOW (R109): a byte that arrives when the buffer is full aborts the frame. -/
def execSxOverflow (_b : Byte) (s : State C) : Result C := .next (abort .overflow (prologue s))

/-- SX.DATA (R110): a data byte is appended to the frame. -/
def execSxData (d : BitVec 7) (s : State C) : Result C :=
  storeAtCount (0#1 ++ d) (prologue s) fun t => .next (countUp t)

/-- SX.EOX (R111): `0xF7` is appended and completes the frame; the valid frame window opens. -/
def execSxEox (s : State C) : Result C :=
  storeAtCount 0xF7#8 (prologue s) fun t =>
    .next (toIdle (emit { (Event.empty : Event C) with kind := .sysex, len := t.rcount + 1 } (recordFrame (t.rcount + 1) t)))

/-- SX.STATUS (R112): a status byte other than `0xF7` aborts the frame and is consumed (decision D4). -/
def execSxStatus (_b : Byte) (s : State C) : Result C := .next (abort .statusInSysex (prologue s))

end Sys2Proof.Machine
end

