-- ==== Sys2Proof/Machine/Text.lean ====
section
/-! DEFINITION. The bounded string measure (spec/41_decoder.md R161). -/

namespace Sys2Proof.Machine

variable {C : Capacity}

/-- The count of R161 under a given STR_ROOM: the scan stops at `0x00`, at the limit, or at the frame's last byte. -/
def stringCount (room : StrRoom) (a maxLen : Nat) (s : State C) : Nat :=
  scanString s a (min (stringLimit room maxLen) (s.flen.toNat - 1 - a))

/-- STRLEN's result under a given STR_ROOM (R161). -/
def stringAnswer (room : StrRoom) (a maxLen : Nat) (s : State C) : Answer :=
  let n := stringCount room a maxLen s
  (BitVec.ofNat 32 n, terminatorAt s (a + n))

/-- STRLEN (R161), under the open parameter STR_ROOM (R7, log 3). -/
def execStrlen (a : BitVec 16) (b : BitVec 24) (s : State C) : Result C :=
  decoderStep s (stringAnswer Config.strRoom a.toNat b.toNat s)

end Sys2Proof.Machine
end

