-- ==== Sys2Proof/Syntax.lean ====
section
/-! DEFINITION. The block's "instructions": one constructor per mnemonic of spec/opcode_table.json, the framer's
twelve rules (format RXBYTE, spec/40_framer.md) and the decoder's twelve operations (format DCMD, spec/41_decoder.md). -/

namespace Sys2Proof

/-- An operand is what its rule reads of the word: a 7-bit data value, a 4-bit channel, a whole byte, or the operand
fields of a command (R71, R95). Fields that an operation ignores (R94) are no operands. -/
inductive Instr where
  /-- IDLE.DATA, R101. -/
  | idleData (d : BitVec 7)
  /-- IDLE.PC, R102. -/
  | idlePc (ch : BitVec 4)
  /-- IDLE.CC, R103. -/
  | idleCc (ch : BitVec 4)
  /-- IDLE.SOX, R104. -/
  | idleSox
  /-- IDLE.AS, R105. -/
  | idleAs
  /-- IDLE.UNK, R106. -/
  | idleUnk (b : Byte)
  /-- COL.DATA, R107. -/
  | colData (d : BitVec 7)
  /-- COL.STATUS, R108. -/
  | colStatus (b : Byte)
  /-- SX.OVERFLOW, R109. -/
  | sxOverflow (b : Byte)
  /-- SX.DATA, R110. -/
  | sxData (d : BitVec 7)
  /-- SX.EOX, R111. -/
  | sxEox
  /-- SX.STATUS, R112. -/
  | sxStatus (b : Byte)
  /-- GETB, R142. -/
  | getb (a : BitVec 16)
  /-- GET7, R143. -/
  | get7 (a : BitVec 16)
  /-- GET14, R144. -/
  | get14 (a : BitVec 16)
  /-- GET31, R145. -/
  | get31 (a : BitVec 16)
  /-- MFREQ, R146. -/
  | mfreq (b : BitVec 24)
  /-- XORCK, R147. -/
  | xorck
  /-- BLKCNT, R155. -/
  | blkcnt
  /-- BLKOFF, R157. -/
  | blkoff (a : BitVec 16)
  /-- MULTI14, R158. -/
  | multi14 (a : BitVec 16)
  /-- MULTI31, R159. -/
  | multi31 (a : BitVec 16)
  /-- STRLEN, R161. -/
  | strlen (a : BitVec 16) (b : BitVec 24)
  /-- GETLEN, R148. -/
  | getlen
  deriving DecidableEq, Repr

end Sys2Proof
end

