-- ==== Sys2Proof/Machine/Dispatch.lean ====
section
/-! DEFINITION. What each instruction does: one arm per constructor of Instr. -/

namespace Sys2Proof.Machine

-- The framer (spec/40_framer.md), then the decoder (spec/41_decoder.md).
def exec (i : Instr) (s : State) : Host.Outcome State Fault Refusal :=
  match i with
  | .idleData d => Sys2Proof.Machine.execIdleData d s
  | .idlePc ch => Sys2Proof.Machine.execIdlePc ch s
  | .idleCc ch => Sys2Proof.Machine.execIdleCc ch s
  | .idleSox => Sys2Proof.Machine.execIdleSox s
  | .idleAs => Sys2Proof.Machine.execIdleAs s
  | .idleUnk b => Sys2Proof.Machine.execIdleUnk b s
  | .colData d => Sys2Proof.Machine.execColData d s
  | .colStatus b => Sys2Proof.Machine.execColStatus b s
  | .sxOverflow b => Sys2Proof.Machine.execSxOverflow b s
  | .sxData d => Sys2Proof.Machine.execSxData d s
  | .sxEox => Sys2Proof.Machine.execSxEox s
  | .sxStatus b => Sys2Proof.Machine.execSxStatus b s
  | .getb a => Sys2Proof.Machine.execGetb a s
  | .get7 a => Sys2Proof.Machine.execGet7 a s
  | .get14 a => Sys2Proof.Machine.execGet14 a s
  | .get31 a => Sys2Proof.Machine.execGet31 a s
  | .mfreq b => Sys2Proof.Machine.execMfreq b s
  | .xorck => Sys2Proof.Machine.execXorck s
  | .blkcnt => Sys2Proof.Machine.execBlkcnt s
  | .blkoff a => Sys2Proof.Machine.execBlkoff a s
  | .multi14 a => Sys2Proof.Machine.execMulti14 a s
  | .multi31 a => Sys2Proof.Machine.execMulti31 a s
  | .strlen a b => Sys2Proof.Machine.execStrlen a b s
  | .getlen => Sys2Proof.Machine.execGetlen s

end Sys2Proof.Machine
end

