-- ==== Sys2Proof/Machine/Classify.lean ====
section
/-! DEFINITION. The fields of a received byte (spec/30_encoding.md R71) and the classes of status bytes (R72, R74). -/

namespace Sys2Proof

/-- S, bit 7: 1 for a status byte (R71). -/
def isStatus (b : Byte) : Bool := b.getLsbD 7

/-- D, bits 6:0: the 7-bit data value (R71). -/
def dataField (b : Byte) : BitVec 7 := b.extractLsb' 0 7

/-- T, bits 7:4: the message type (R71). -/
def typeField (b : Byte) : BitVec 4 := b.extractLsb' 4 4

/-- CH, bits 3:0: the channel (R71). -/
def channelField (b : Byte) : BitVec 4 := b.extractLsb' 0 4

/-- The class UNK of R72, written as its byte ranges. -/
def isUnknownStatus (b : Byte) : Bool :=
  let n := b.toNat
  (0x80 ≤ n && n ≤ 0xAF) || (0xD0 ≤ n && n ≤ 0xEF) || (0xF1 ≤ n && n ≤ 0xFD) || n == 0xFF

/-- The status bytes that abort a SysEx frame: every one but `0xF7` (R74, R112). -/
def isAbortingStatus (b : Byte) : Bool := isStatus b && b != 0xF7#8

end Sys2Proof
end

