-- ==== Sys2Proof/WellFormed.lean ====
section
/-! DEFINITION. Which terms of `Instr` some word spells: the checks on the operands that are whole bytes. -/

namespace Sys2Proof

/-- IDLE.UNK carries a byte of the class UNK (R72), COL.STATUS a status byte (R108), SX.STATUS a status byte other
than `0xF7` (R112). Every other operand may have any value. -/
def Instr.wellFormed : Instr → Bool
  | .idleUnk b => isUnknownStatus b
  | .colStatus b => isStatus b
  | .sxStatus b => isAbortingStatus b
  | .idleData _ | .idlePc _ | .idleCc _ | .idleSox | .idleAs | .colData _ | .sxOverflow _ | .sxData _ | .sxEox
  | .getb _ | .get7 _ | .get14 _ | .get31 _ | .mfreq _ | .xorck | .blkcnt | .blkoff _ | .multi14 _ | .multi31 _
  | .strlen _ _ | .getlen => true

end Sys2Proof
end

