-- ==== Sys2Proof/Decode.lean ====
section
/-! DEFINITION. From a word at a port to an instruction (spec/30_encoding.md R70 to R76, R92 to R95; the dispatch of
spec/40_framer.md R100 and the prologue of spec/41_decoder.md R140), and back. -/

namespace Sys2Proof

/-- What of the framer's state selects a framer rule (R70, R100): PSTATE and, in COLLECT_SYSEX, whether RCOUNT == CAP. -/
inductive RxContext where
  | idle
  | collect
  | sysex
  | sysexFull
  deriving DecidableEq, Repr

/-- Why a command word is reserved (R94). -/
inductive DecodeError where
  /-- `op` is `0x0`, `0xD`, `0xE` or `0xF`. -/
  | reservedOp (op : BitVec 4)
  /-- `rsv` is not 0. -/
  | reservedField (rsv : BitVec 4)
  deriving DecidableEq, Repr

/-- D.op: bits 3:0 of a command word (R92). -/
def cmdOp (w : CmdWord) : BitVec 4 := w.extractLsb' 0 4

/-- rsv: bits 7:4 of a command word (R92). -/
def cmdRsv (w : CmdWord) : BitVec 4 := w.extractLsb' 4 4

/-- D.a: bits 23:8 of a command word (R92). -/
def cmdA (w : CmdWord) : BitVec 16 := w.extractLsb' 8 16

/-- D.b: bits 47:24 of a command word (R92). -/
def cmdB (w : CmdWord) : BitVec 24 := w.extractLsb' 24 24

/-- The framer rule that a byte selects: the dispatch of R100, in its order. -/
def decodeRx : RxContext → Byte → Instr
  | .idle, b =>
    if isStatus b = false then .idleData (dataField b)
    else if typeField b = 0xC#4 then .idlePc (channelField b)
    else if typeField b = 0xB#4 then .idleCc (channelField b)
    else if b = 0xF0#8 then .idleSox
    else if b = 0xFE#8 then .idleAs
    else .idleUnk b
  | .collect, b => if isStatus b = false then .colData (dataField b) else .colStatus b
  | .sysexFull, b => .sxOverflow b
  | .sysex, b =>
    if b = 0xF7#8 then .sxEox
    else if isStatus b = true then .sxStatus b
    else .sxData (dataField b)

/-- The operation of a command word whose `rsv` is 0: the opcode map of R93. -/
def decodeOp (w : CmdWord) : Except DecodeError Instr :=
  match (cmdOp w).toNat with
  | 0x1 => .ok (.getb (cmdA w))
  | 0x2 => .ok (.get7 (cmdA w))
  | 0x3 => .ok (.get14 (cmdA w))
  | 0x4 => .ok (.get31 (cmdA w))
  | 0x5 => .ok (.mfreq (cmdB w))
  | 0x6 => .ok .xorck
  | 0x7 => .ok .blkcnt
  | 0x8 => .ok (.blkoff (cmdA w))
  | 0x9 => .ok (.multi14 (cmdA w))
  | 0xA => .ok (.multi31 (cmdA w))
  | 0xB => .ok (.strlen (cmdA w) (cmdB w))
  | 0xC => .ok .getlen
  | _ => .error (.reservedOp (cmdOp w))

/-- The operation a command word spells, or why it is reserved (R93, R94). -/
def decodeCmd (w : CmdWord) : Except DecodeError Instr :=
  if cmdRsv w = 0#4 then decodeOp w else .error (.reservedField (cmdRsv w))

/-- The instruction that a word at a port spells. Total; only a reserved command is rejected. -/
def decode (c : RxContext) : PortWord → Except DecodeError Instr
  | .rxByte b => .ok (decodeRx c b)
  | .dcmd w => decodeCmd w

/-- A command word `{b, a, rsv, op}` with `rsv` 0 (R92). -/
def makeCmd (b : BitVec 24) (a : BitVec 16) (op : BitVec 4) : CmdWord := b ++ a ++ 0#4 ++ op

/-- The word that spells an instruction; an operand field that the operation ignores is 0 (log 14). -/
def encode : Instr → PortWord
  | .idleData d => .rxByte (0#1 ++ d)
  | .idlePc ch => .rxByte (0xC#4 ++ ch)
  | .idleCc ch => .rxByte (0xB#4 ++ ch)
  | .idleSox => .rxByte 0xF0#8
  | .idleAs => .rxByte 0xFE#8
  | .idleUnk b => .rxByte b
  | .colData d => .rxByte (0#1 ++ d)
  | .colStatus b => .rxByte b
  | .sxOverflow b => .rxByte b
  | .sxData d => .rxByte (0#1 ++ d)
  | .sxEox => .rxByte 0xF7#8
  | .sxStatus b => .rxByte b
  | .getb a => .dcmd (makeCmd 0#24 a 0x1#4)
  | .get7 a => .dcmd (makeCmd 0#24 a 0x2#4)
  | .get14 a => .dcmd (makeCmd 0#24 a 0x3#4)
  | .get31 a => .dcmd (makeCmd 0#24 a 0x4#4)
  | .mfreq b => .dcmd (makeCmd b 0#16 0x5#4)
  | .xorck => .dcmd (makeCmd 0#24 0#16 0x6#4)
  | .blkcnt => .dcmd (makeCmd 0#24 0#16 0x7#4)
  | .blkoff a => .dcmd (makeCmd 0#24 a 0x8#4)
  | .multi14 a => .dcmd (makeCmd 0#24 a 0x9#4)
  | .multi31 a => .dcmd (makeCmd 0#24 a 0xA#4)
  | .strlen a b => .dcmd (makeCmd b a 0xB#4)
  | .getlen => .dcmd (makeCmd 0#24 0#16 0xC#4)

/-- In which contexts the dispatch of R100 can select an instruction; a decoder operation in each (R140). -/
def Instr.selectableIn : Instr → RxContext → Bool
  | .idleData _, c | .idlePc _, c | .idleCc _, c | .idleSox, c | .idleAs, c | .idleUnk _, c => c == .idle
  | .colData _, c | .colStatus _, c => c == .collect
  | .sxOverflow _, c => c == .sysexFull
  | .sxData _, c | .sxEox, c | .sxStatus _, c => c == .sysex
  | .getb _, _ | .get7 _, _ | .get14 _, _ | .get31 _, _ | .mfreq _, _ | .xorck, _ | .blkcnt, _ | .blkoff _, _
  | .multi14 _, _ | .multi31 _, _ | .strlen _ _, _ | .getlen, _ => true

/-- The decoder's operations: the rows of format DCMD. -/
def Instr.isDecoder : Instr → Bool
  | .getb _ | .get7 _ | .get14 _ | .get31 _ | .mfreq _ | .xorck | .blkcnt | .blkoff _ | .multi14 _ | .multi31 _
  | .strlen _ _ | .getlen => true
  | .idleData _ | .idlePc _ | .idleCc _ | .idleSox | .idleAs | .idleUnk _ | .colData _ | .colStatus _
  | .sxOverflow _ | .sxData _ | .sxEox | .sxStatus _ => false

/-- The rows `(mask, match)` of spec/opcode_table.json that bear an instruction's mnemonic. -/
def Instr.tableRows : Instr → List (Nat × Nat)
  | .idleData _ => [(0x80, 0x00)]
  | .idlePc _ => [(0xF0, 0xC0)]
  | .idleCc _ => [(0xF0, 0xB0)]
  | .idleSox => [(0xFF, 0xF0)]
  | .idleAs => [(0xFF, 0xFE)]
  | .idleUnk _ => [(0xF0, 0x80), (0xF0, 0x90), (0xF0, 0xA0), (0xF0, 0xD0), (0xF0, 0xE0), (0xFF, 0xF1), (0xFE, 0xF2),
      (0xFC, 0xF4), (0xFC, 0xF8), (0xFE, 0xFC), (0xFF, 0xFF)]
  | .colData _ => [(0x80, 0x00)]
  | .colStatus _ => [(0x80, 0x80)]
  | .sxOverflow _ => [(0x00, 0x00)]
  | .sxData _ => [(0x80, 0x00)]
  | .sxEox => [(0xFF, 0xF7)]
  | .sxStatus _ => [(0xC0, 0x80), (0xE0, 0xC0), (0xF0, 0xE0), (0xFC, 0xF0), (0xFE, 0xF4), (0xFF, 0xF6), (0xF8, 0xF8)]
  | .getb _ => [(0xFF, 0x1)]
  | .get7 _ => [(0xFF, 0x2)]
  | .get14 _ => [(0xFF, 0x3)]
  | .get31 _ => [(0xFF, 0x4)]
  | .mfreq _ => [(0xFF, 0x5)]
  | .xorck => [(0xFF, 0x6)]
  | .blkcnt => [(0xFF, 0x7)]
  | .blkoff _ => [(0xFF, 0x8)]
  | .multi14 _ => [(0xFF, 0x9)]
  | .multi31 _ => [(0xFF, 0xA)]
  | .strlen _ _ => [(0xFF, 0xB)]
  | .getlen => [(0xFF, 0xC)]

/-- A word at a port as a number. -/
def PortWord.bits : PortWord → Nat
  | .rxByte b => b.toNat
  | .dcmd w => w.toNat

/-- Where a word of the opcode table is presented. The table numbers a word's bits and does not name its port, and it
gives a command row only its low byte. A word of more than 8 bits is a command; so is a word of at most 8 bits that is
the low byte of a command row, `0x01` to `0x0C`; any other word of at most 8 bits is a received byte. DESIGN CHOICE, log 13. -/
def tablePort (nbits w : Nat) : PortWord :=
  let v := w % 2 ^ nbits
  if 8 < nbits || (1 ≤ v && v ≤ 0xC) then .dcmd (BitVec.ofNat 48 v) else .rxByte (BitVec.ofNat 8 v)

/-- The instruction the decoder reads from a word of the opcode table, in the state after reset (PSTATE = IDLE). Log 13. -/
def decodeTableWord (nbits w : Nat) : Option Instr :=
  match decode .idle (tablePort nbits w) with
  | .ok i => some i
  | .error _ => none

end Sys2Proof
end

