-- ==== Sys2Proof/Machine/Schedule.lean ====
section
/-! DEFINITION. One step of the host's schedule (spec/70_reset_and_hazards.md R231): which word the block is given, what
it decodes to, and the reset step. -/

namespace Sys2Proof.Machine

variable {C : Capacity}

/-- What of the framer's state selects the rule of the next byte (R100); RCOUNT == CAP is checked first (R109, R196). -/
def rxContext (s : State C) : RxContext :=
  match s.pstate with
  | .idle => .idle
  | .collect => .collect
  | .collectSysex => if countFull s then .sysexFull else .sysex

/-- A reserved command is refused (R195). -/
def refusalOf : DecodeError → Refusal
  | .reservedOp op => .reservedOp op
  | .reservedField rsv => .reservedField rsv

/-- One step on a word at a port: decode it in the framer's context and execute it, by the given meaning of instructions. -/
def runWord (run : Instr → State C → Result C) (p : PortWord) (s : State C) : Result C :=
  match decode (rxContext s) p with
  | .ok i => run i s
  | .error e => .refused (refusalOf e)

/-- One step on one host input: a word (R60), or RESET (R220). -/
def runInput (run : Instr → State C → Result C) (h : HostInput) (s : State C) : Result C :=
  match h with
  | .word p => runWord run p s
  | .reset => .next (resetStep s)

/-- One step: the host's next input is taken from its schedule. While the host offers nothing, the block holds its
state (R119, R208) and emits nothing (R27). -/
def runSchedule (run : Instr → State C → Result C) (s : State C) : Result C :=
  match s.inputs with
  | [] => .next (noEvent s)
  | h :: rest => runInput run h { s with inputs := rest }

/-- The host presents a word in the next step, before what it had planned. -/
def present (p : PortWord) (s : State C) : State C := { s with inputs := .word p :: s.inputs }

end Sys2Proof.Machine
end

