-- ==== Sys2Proof/Machine/Step.lean ====
section
/-! DEFINITION. One step of the machine, and a state whose next step is given a word of the opcode table. -/

namespace Sys2Proof.Machine

/-- One step of the block: a framer step, a decoder step or a reset step, as the host's schedule says (R60, R231). -/
def step (s : State) : Host.Outcome State Fault Refusal := runSchedule exec s

/-- `s` with a word of spec/opcode_table.json presented at its port in the next step (log 13). -/
def State.withFetchWord (s : State) (nbits w : Nat) : State := present (tablePort nbits w) s

end Sys2Proof.Machine
end

