-- ==== Sys2Proof/Machine/Parameter.lean ====
section
/-! DEFINITION. The machine with CAP as its parameter (spec/00_scope.md R5): `exec` and `step` are its instance at the
spec's value 256. -/

namespace Sys2Proof.Machine

variable {C : Capacity}

/-- What each instruction does in the block of capacity `C`: the meanings that `exec` dispatches to. -/
def execAt (i : Instr) (s : State C) : Result C :=
  match i with
  | .idleData d => execIdleData d s
  | .idlePc ch => execIdlePc ch s
  | .idleCc ch => execIdleCc ch s
  | .idleSox => execIdleSox s
  | .idleAs => execIdleAs s
  | .idleUnk b => execIdleUnk b s
  | .colData d => execColData d s
  | .colStatus b => execColStatus b s
  | .sxOverflow b => execSxOverflow b s
  | .sxData d => execSxData d s
  | .sxEox => execSxEox s
  | .sxStatus b => execSxStatus b s
  | .getb a => execGetb a s
  | .get7 a => execGet7 a s
  | .get14 a => execGet14 a s
  | .get31 a => execGet31 a s
  | .mfreq b => execMfreq b s
  | .xorck => execXorck s
  | .blkcnt => execBlkcnt s
  | .blkoff a => execBlkoff a s
  | .multi14 a => execMulti14 a s
  | .multi31 a => execMulti31 a s
  | .strlen a b => execStrlen a b s
  | .getlen => execGetlen s

/-- One step of the block of capacity `C` (R60, R231). -/
def stepAt (s : State C) : Result C := runSchedule execAt s

end Sys2Proof.Machine
end

