-- ==== Sys2Proof/Machine/Accessors.lean ====
section
/-! DEFINITION. The pseudo-operations (spec/30_encoding.md R97): the vendor accessors, each of which expands to one
decoder command. They add no meaning of their own. -/

namespace Sys2Proof.Machine

/-- The vendor accessors of R97; an argument is an index or a `max_len`. -/
inductive Accessor where
  | axeMfrOk
  | axeModel
  | axeFunc
  | axeCksumOk
  | axeBlkcnt
  | axeBlk (i : BitVec 16)
  | axeName (m : BitVec 24)
  | kpaMfrOk
  | kpaProduct
  | kpaDevice
  | kpaFunc
  | kpaInstance
  | kpaAddr
  | kpaExtaddr
  | kpaValue
  | kpaMulti (i : BitVec 16)
  | kpaExtmulti (i : BitVec 16)
  | kpaStr (m : BitVec 24)
  | kpaExtstr (m : BitVec 24)
  | kpaAsc
  deriving DecidableEq, Repr

/-- The AxeFx manufacturer ID (R84). -/
def axefxId : BitVec 24 := 0x000174

/-- The Kemper manufacturer ID (R84). -/
def kemperId : BitVec 24 := 0x002033

/-- The command an accessor expands to (R97). -/
def expand : Accessor → Instr
  | .axeMfrOk => .mfreq axefxId
  | .axeModel => .get7 4
  | .axeFunc => .get7 5
  | .axeCksumOk => .xorck
  | .axeBlkcnt => .blkcnt
  | .axeBlk i => .blkoff i
  | .axeName m => .strlen 6 m
  | .kpaMfrOk => .mfreq kemperId
  | .kpaProduct => .get7 4
  | .kpaDevice => .get7 5
  | .kpaFunc => .get7 6
  | .kpaInstance => .get7 7
  | .kpaAddr => .get14 8
  | .kpaExtaddr => .get31 8
  | .kpaValue => .get14 10
  | .kpaMulti i => .multi14 i
  | .kpaExtmulti i => .multi31 i
  | .kpaStr m => .strlen 10 m
  | .kpaExtstr m => .strlen 13 m
  | .kpaAsc => .get7 Config.kpaAscOffset

/-- The successor of an active-sensing counter value: modulo 128, so 0 follows 127 (R162). -/
def nextAscCounter (c : BitVec 7) : BitVec 7 := c + 1

end Sys2Proof.Machine
end

