-- ==== Sys2Proof/Machine/Layouts.lean ====
section
/-! DEFINITION. The wire layouts the decoder reads (spec/30_encoding.md R78 to R90), as the byte lists that conform to
them. No step calls them: frames come from the host. -/

namespace Sys2Proof.Machine

/-- The two bytes of a 14-bit field (R81). -/
def split14 (v : BitVec 14) : List Byte := [0#1 ++ v.extractLsb' 7 7, 0#1 ++ v.extractLsb' 0 7]

/-- The five bytes of a 31-bit field, 32 bits wide (R82). -/
def split31 (v : BitVec 32) : List Byte :=
  [0#4 ++ v.extractLsb' 28 4, 0#1 ++ v.extractLsb' 21 7, 0#1 ++ v.extractLsb' 14 7, 0#1 ++ v.extractLsb' 7 7,
    0#1 ++ v.extractLsb' 0 7]

/-- The three bytes of a manufacturer ID (R79, R84). -/
def splitId (m : BitVec 24) : List Byte := [m.extractLsb' 16 8, m.extractLsb' 8 8, m.extractLsb' 0 8]

/-- A byte that carries a 7-bit field (R80). -/
def sevenBit (d : BitVec 7) : Byte := 0#1 ++ d

/-- The generic frame (R78). -/
def sysexFrame (payload : List Byte) : List Byte := 0xF0#8 :: (payload ++ [0xF7#8])

/-- The manufacturer-tagged frame (R79). -/
def taggedFrame (m : BitVec 24) (payload : List Byte) : List Byte := sysexFrame (splitId m ++ payload)

/-- The XOR of a list of bytes. -/
def xorAll (bs : List Byte) : Byte := bs.foldl (· ^^^ ·) 0

/-- The AxeFx checksum of the bytes before it (R86). -/
def axefxChecksum (bs : List Byte) : Byte := xorAll bs &&& 0x7F#8

/-- The bytes of an AxeFx frame before its checksum (R85). -/
def axefxHead (model func : BitVec 7) (payload : List Byte) : List Byte :=
  0xF0#8 :: (splitId axefxId ++ [sevenBit model, sevenBit func] ++ payload)

/-- The AxeFx frame (R85, R86). -/
def axefxFrame (model func : BitVec 7) (payload : List Byte) : List Byte :=
  let head := axefxHead model func payload
  head ++ [axefxChecksum head, 0xF7#8]

/-- The effect-block response (R87): 5-byte chunks, whose fields the spec leaves out (R4). -/
def effectBlockFrame (model func : BitVec 7) (chunks : List (Vector Byte 5)) : List Byte :=
  axefxFrame model func (chunks.flatMap Vector.toList)

/-- The preset-name response (R88): function `0x0F`, the name at offset 6, then `0x00`. -/
def presetNameFrame (model : BitVec 7) (name : List Byte) : List Byte := axefxFrame model 0x0F (name ++ [0x00#8])

/-- A Kemper frame (R89) with the given address bytes and payload. -/
def kemperFrame (func : BitVec 7) (address payload : List Byte) : List Byte :=
  taggedFrame kemperId ([0x02#8, 0x7F#8, sevenBit func, 0x00#8] ++ address ++ payload)

/-- Single parameter change (R90). -/
def kemperSingle (func : BitVec 7) (addr v : BitVec 14) : List Byte := kemperFrame func (split14 addr) (split14 v)

/-- Multi parameter change (R90). -/
def kemperMulti (func : BitVec 7) (addr : BitVec 14) (vs : List (BitVec 14)) : List Byte :=
  kemperFrame func (split14 addr) (vs.flatMap split14)

/-- String parameter change (R90). -/
def kemperString (func : BitVec 7) (addr : BitVec 14) (text : List Byte) : List Byte :=
  kemperFrame func (split14 addr) (text ++ [0x00#8])

/-- BLOB change (R90). -/
def kemperBlob (func : BitVec 7) (addr off size : BitVec 14) (raw : List Byte) : List Byte :=
  kemperFrame func (split14 addr) (split14 off ++ split14 size ++ raw)

/-- Extended parameter change (R90). -/
def kemperExtended (func : BitVec 7) (addr : BitVec 32) (vs : List (BitVec 32)) : List Byte :=
  kemperFrame func (split31 addr) (vs.flatMap split31)

/-- Extended string parameter change (R90). -/
def kemperExtendedString (func : BitVec 7) (addr : BitVec 32) (text : List Byte) : List Byte :=
  kemperFrame func (split31 addr) (text ++ [0x00#8])

/-- A request with a standard address (R90). -/
def kemperRequest (func : BitVec 7) (addr : BitVec 14) : List Byte := kemperFrame func (split14 addr) []

/-- A request with an extended address (R90). -/
def kemperExtendedRequest (func : BitVec 7) (addr : BitVec 32) : List Byte := kemperFrame func (split31 addr) []

end Sys2Proof.Machine
end

