-- ==== Sys2Proof/Safety.lean ====
section
/-! DEFINITION. What counts as a sound state (spec/10_state.md R36), and the words that statements are written in. -/

namespace Sys2Proof.Machine

variable {C : Capacity}

/-- Byte `i` of BUF has been written since reset, with a value at most `0x7F`. -/
def dataWritten (s : State C) (i : Nat) : Prop := ∃ v, s.buf.read i = some v ∧ v.toNat ≤ 0x7F

/-- Every listed offset is one of BUF's, `0..CAP-1` (R50). -/
def offsetsInRange (s : State C) : Prop := ∀ i v, s.buf.read i = some v → i < C.bytes

/-- R36 (i). -/
def idleInv (s : State C) : Prop := s.pstate = .idle → s.rcount = 0

/-- R36 (ii). -/
def collectInv (s : State C) : Prop :=
  s.pstate = .collect →
    (s.rcount = 1 ∨ s.rcount = 2) ∧ s.rcount.toNat < s.pkind.len ∧
    (∃ v, s.buf.read 0 = some v ∧ typeField v = (match s.pkind with | .pc => 0xC#4 | .cc => 0xB#4)) ∧
    ∀ i, 1 ≤ i → i < s.rcount.toNat → dataWritten s i

/-- R36 (iii). -/
def sysexInv (s : State C) : Prop :=
  s.pstate = .collectSysex →
    1 ≤ s.rcount.toNat ∧ s.rcount.toNat ≤ C.bytes ∧ s.buf.read 0 = some 0xF0#8 ∧
    ∀ i, 1 ≤ i → i < s.rcount.toNat → dataWritten s i

/-- R36 (iv). -/
def frameInv (s : State C) : Prop :=
  s.fvalid = true →
    s.pstate = .idle ∧ 2 ≤ s.flen.toNat ∧ s.flen.toNat ≤ C.bytes ∧
    s.buf.read 0 = some 0xF0#8 ∧ s.buf.read (s.flen.toNat - 1) = some 0xF7#8 ∧
    ∀ i, 1 ≤ i → i + 2 ≤ s.flen.toNat → dataWritten s i

/-- The invariants of reachable states (R36), with the canonical form of BUF and its range of offsets (R50). -/
def Sound (s : State C) : Prop :=
  idleInv s ∧ collectInv s ∧ sysexInv s ∧ frameInv s ∧ s.buf.wf = true ∧ offsetsInRange s

/-- What no framer step touches: the decoder's results (R33), the host's schedule and the draw counter. -/
def framerKeeps (s t : State C) : Prop :=
  t.dres = s.dres ∧ t.dok = s.dok ∧ t.inputs = s.inputs ∧ t.draws = s.draws

/-- What every decoder step leaves as before: every register of the framer and all of BUF (R30, R140), the host's schedule
and the recorded outcome. -/
def decoderKeeps (s t : State C) : Prop :=
  t.pstate = s.pstate ∧ t.pkind = s.pkind ∧ t.rcount = s.rcount ∧ (∀ i, t.buf.read i = s.buf.read i) ∧
  t.flen = s.flen ∧ t.fvalid = s.fvalid ∧ t.inputs = s.inputs ∧ t.cause = s.cause

/-- Every byte of BUF but the one at `o` is as before. -/
def bufSameBut (o : Nat) (s t : State C) : Prop := ∀ i, i ≠ o → t.buf.read i = s.buf.read i

/-- Every byte of BUF is as before. -/
def bufSame (s t : State C) : Prop := ∀ i, t.buf.read i = s.buf.read i

/-- The instruction completes from `s` with D.res and D.ok as given, and leaves what every decoder step
leaves. -/
def Answers (i : Instr) (s : State) (res : BitVec 32) (ok : Bool) : Prop :=
  ∃ t, exec i s = .next t ∧ t.dres = res ∧ t.dok = ok ∧ decoderKeeps s t

/-- Every command word whose `op` is the given one and whose `rsv` is 0 spells the given operation on its operand fields
`a` and `b`, whatever the framer's state (R92, R93, R140). -/
def commandSpells (op : Nat) (f : BitVec 16 → BitVec 24 → Instr) : Prop :=
  ∀ c w, cmdRsv w = 0 → (cmdOp w).toNat = op → decode c (.dcmd w) = .ok (f (cmdA w) (cmdB w))

/-- A command word is reserved (R94). -/
def isReserved (w : CmdWord) : Prop :=
  (cmdOp w).toNat = 0x0 ∨ (cmdOp w).toNat = 0xD ∨ (cmdOp w).toNat = 0xE ∨ (cmdOp w).toNat = 0xF ∨ cmdRsv w ≠ 0

/-- BUF holds a completed frame, these bytes, inside its valid frame window (R29, R56). -/
def holdsFrame (s : State C) (bs : List Byte) : Prop :=
  s.fvalid = true ∧ s.flen.toNat = bs.length ∧ ∀ i v, bs[i]? = some v → s.buf.read i = some v

/-- The host's next inputs are these bytes, fed left to right (R13). -/
def feeds (s : State C) (bs : List Byte) (rest : List HostInput) : Prop :=
  s.inputs = bs.map (fun b => .word (.rxByte b)) ++ rest

/-- The first offset that an operation reads through ByteAt, and how many bytes it reads from there (R54). -/
def guardedReads : Instr → Nat × Nat
  | .getb a | .get7 a => (a.toNat, 1)
  | .get14 a => (a.toNat, 2)
  | .get31 a => (a.toNat, 5)
  | .mfreq _ => (1, 3)
  | .xorck | .blkcnt | .blkoff _ | .multi14 _ | .multi31 _ | .strlen _ _ | .getlen => (0, 0)
  | .idleData _ | .idlePc _ | .idleCc _ | .idleSox | .idleAs | .idleUnk _ | .colData _ | .colStatus _
  | .sxOverflow _ | .sxData _ | .sxEox | .sxStatus _ => (0, 0)

/-- No draw is involved in the operation (R55, R56, R155, R157): the window is open on a written frame, the bytes read
through ByteAt lie inside it, and FLEN is long enough for the effect-block count where that is what is read. -/
def drawFree (i : Instr) (s : State C) : Prop :=
  s.fvalid = true ∧ 2 ≤ s.flen.toNat ∧ (∀ k, k < s.flen.toNat → s.buf.read k ≠ none) ∧
  (guardedReads i).1 + (guardedReads i).2 ≤ s.flen.toNat ∧
  (i = .blkcnt ∨ (∃ a, i = .blkoff a) → 6 ≤ s.flen.toNat)

/-- A row of instructions executed one after the other, if each gives a next state. -/
def execAll : List Instr → State → Option State
  | [], s => some s
  | i :: is, s =>
    match exec i s with
    | .next t => execAll is t
    | .fault _ | .refused _ => none

end Sys2Proof.Machine
end

