-- ==== Sys2Proof/Certificates/Slice0/Obligations.lean ====
section
/-! DEFINITION. The statements for the provers, out of the spec's numbered rules. -/

open Sys2Proof Sys2Proof.Machine

/-! ### Reset and invariants (spec/10_state.md, spec/70_reset_and_hazards.md) -/

/-- R35: the reset values, in `State.reset`. PKIND is unspecified (log 7); every byte of BUF is a draw. -/
def Obligations.ResetStateValues : Prop :=
  State.reset.pstate = .idle ∧ State.reset.rcount = 0 ∧ State.reset.flen = 0 ∧ State.reset.fvalid = false ∧
  State.reset.ev = ⟨.none, 0, 0, 0, 0⟩ ∧ State.reset.dres = 0 ∧ State.reset.dok = false ∧
  ∀ i, bufAt State.reset i = Config.bufInit State.reset.draws i

/-- R220, R221: a reset step from any state, in mid-message or inside the valid frame window, gives no event, closes the
window and sets every register to its reset value; BUF is unspecified, and so is PKIND. -/
def Obligations.ResetStepRestoresState : Prop :=
  ∀ (s : State) (rest : List HostInput), s.inputs = .reset :: rest →
    ∃ t, step s = .next t ∧ t.pstate = .idle ∧ t.rcount = 0 ∧ t.flen = 0 ∧ t.fvalid = false ∧
      t.ev = ⟨.none, 0, 0, 0, 0⟩ ∧ t.dres = 0 ∧ t.dok = false ∧
      ∀ i, bufAt t i = Config.bufInit t.draws i

/-- The reset state meets the invariants of R36 and the canonical form of BUF, the model's choice (log 6). -/
def Obligations.ResetSatisfiesInvariants : Prop := Sound State.reset

/-- R36: every step keeps (i) to (iv), and with them the canonical form of BUF, which is the model's choice (log 6), and its
range of offsets. -/
def Obligations.StepKeepsInvariants : Prop := ∀ s t : State, Sound s → step s = .next t → Sound t

/-- The canonical form of BUF, the model's choice (log 6), is kept by every step from every state, reachable or not. -/
def Obligations.StepKeepsBufferCanonical : Prop :=
  ∀ s t : State, s.buf.wf = true → step s = .next t → t.buf.wf = true

/-- R120, R190, R195: a state that meets the invariants takes a next state, unless the host's next input is a reserved
command. -/
def Obligations.StepsNeverFault : Prop :=
  ∀ s : State, Sound s →
    (∃ t, step s = .next t) ∨ (∃ w rest, s.inputs = .word (.dcmd w) :: rest ∧ isReserved w)

/-! ### The step and the encodings (spec/20_memory.md R60, spec/30_encoding.md) -/

/-- What a step does: nothing, and no event, while the host offers nothing; otherwise it takes the host's next input and, where it is a
word that decodes in the framer's context, it is `exec` of the instruction; a command that does not decode is refused;
a reset input is a reset step. That the host's inputs are a list in the state is the model's choice (log 1). That EV reads
NONE after a step in which the host offers nothing is deduced from R117 (log 8). -/
def Obligations.StepRunsDecodedInstruction : Prop :=
  ∀ s : State,
    (s.inputs = [] → step s = .next { s with ev := ⟨.none, 0, 0, 0, 0⟩ }) ∧
    (∀ p rest i, s.inputs = .word p :: rest → decode (rxContext s) p = .ok i → i.wellFormed = true →
      step s = exec i { s with inputs := rest }) ∧
    (∀ p rest e, s.inputs = .word p :: rest → decode (rxContext s) p = .error e → step s = .refused (refusalOf e)) ∧
    (∀ rest, s.inputs = .reset :: rest → step s = .next (resetStep { s with inputs := rest })) ∧
    (rxContext s = .idle ↔ s.pstate = .idle) ∧ (rxContext s = .collect ↔ s.pstate = .collect) ∧
    (rxContext s = .sysexFull ↔ s.pstate = .collectSysex ∧ s.rcount.toNat = Config.cap) ∧
    (rxContext s = .sysex ↔ s.pstate = .collectSysex ∧ s.rcount.toNat ≠ Config.cap)

/-- R94: the reserved command words are exactly those with `op` 0, D, E or F or a nonzero `rsv`, and a step on one is
refused and on any other is not; operand fields an operation does not use are ignored. -/
def Obligations.ReservedCommandsAreRefused : Prop :=
  (∀ (s : State) (w : CmdWord) (rest : List HostInput), s.inputs = .word (.dcmd w) :: rest →
    ((∃ r, step s = .refused r) ↔ isReserved w)) ∧
  (∀ (c : RxContext) (w v : CmdWord), cmdRsv w = 0 → cmdRsv v = 0 → cmdOp v = cmdOp w →
    ((cmdOp w).toNat ∈ [0x1, 0x2, 0x3, 0x4, 0x8, 0x9, 0xA] → cmdA v = cmdA w → decode c (.dcmd v) = decode c (.dcmd w)) ∧
    ((cmdOp w).toNat = 0x5 → cmdB v = cmdB w → decode c (.dcmd v) = decode c (.dcmd w)) ∧
    ((cmdOp w).toNat ∈ [0x6, 0x7, 0xC] → decode c (.dcmd v) = decode c (.dcmd w)))

/-- Decoding the encoding of a well-formed instruction gives it back, with every operand at every value, in each framer
context that can select it. -/
def Obligations.DecodeOfEncode : Prop :=
  ∀ (i : Instr) (c : RxContext), i.wellFormed = true → i.selectableIn c = true → decode c (encode i) = .ok i

/-- Every received byte selects exactly one framer rule in every context, and that rule's instruction is spelt by it. -/
def Obligations.EveryByteSelectsOneRule : Prop :=
  ∀ (c : RxContext) (b : Byte), ∃ i : Instr,
    decode c (.rxByte b) = .ok i ∧ i.wellFormed = true ∧ i.isDecoder = false ∧ i.selectableIn c = true ∧
    encode i = .rxByte b ∧
    ∀ j : Instr, j.wellFormed = true → j.isDecoder = false → j.selectableIn c = true → encode j = .rxByte b → j = i

/-- Words written out in spec/95_test_vectors.md (E1 to E11) and bytes of sections 2 and 40 decode as they say there. -/
def Obligations.SpecWordsDecode : Prop :=
  decode .idle (.dcmd 0x000000000502) = .ok (.get7 5) ∧
  decode .idle (.dcmd 0x000174000005) = .ok (.mfreq 0x000174) ∧
  decode .idle (.dcmd 0x00001000060B) = .ok (.strlen 6 16) ∧
  decode .idle (.dcmd 0x000000000309) = .ok (.multi14 3) ∧
  decode .idle (.dcmd 0x000000000108) = .ok (.blkoff 1) ∧
  decode .idle (.dcmd 0x000000000006) = .ok .xorck ∧
  decode .idle (.dcmd 0xFFFFFFFFFF0C) = .ok .getlen ∧
  decode .idle (.rxByte 0xC3) = .ok (.idlePc 3) ∧
  decode .idle (.rxByte 0xFE) = .ok .idleAs ∧
  decode .idle (.rxByte 0xF7) = .ok (.idleUnk 0xF7) ∧
  decode .collect (.rxByte 0x7F) = .ok (.colData 0x7F) ∧
  decode .sysex (.rxByte 0xF7) = .ok .sxEox ∧
  decode .sysexFull (.rxByte 0xF7) = .ok (.sxOverflow 0xF7)

/-- R72: in IDLE a status byte falls into exactly one class, by its ranges. -/
def Obligations.IdleStatusClasses : Prop :=
  ∀ b : Byte,
    (0xC0 ≤ b.toNat ∧ b.toNat ≤ 0xCF → decode .idle (.rxByte b) = .ok (.idlePc (b.extractLsb' 0 4))) ∧
    (0xB0 ≤ b.toNat ∧ b.toNat ≤ 0xBF → decode .idle (.rxByte b) = .ok (.idleCc (b.extractLsb' 0 4))) ∧
    (b.toNat = 0xF0 → decode .idle (.rxByte b) = .ok .idleSox) ∧
    (b.toNat = 0xFE → decode .idle (.rxByte b) = .ok .idleAs) ∧
    (0x80 ≤ b.toNat ∧ b.toNat ≤ 0xAF ∨ 0xD0 ≤ b.toNat ∧ b.toNat ≤ 0xEF ∨ 0xF1 ≤ b.toNat ∧ b.toNat ≤ 0xFD ∨
      b.toNat = 0xFF → decode .idle (.rxByte b) = .ok (.idleUnk b))

/-! ### The framer's rules (spec/40_framer.md) -/

/-- R101, R106: a dropped byte gives no event and closes the valid frame window; nothing else changes. In IDLE R24
leaves PKIND unspecified; that it keeps its value there is the model's choice (log 20). -/
def Obligations.IdleDropsLeaveStateAlone : Prop :=
  (∀ b : Byte, b &&& 0x80 = 0x00 → decode .idle (.rxByte b) = .ok (.idleData (b.extractLsb' 0 7))) ∧
  (∀ b : Byte, isUnknownStatus b = true → decode .idle (.rxByte b) = .ok (.idleUnk b)) ∧
  ∀ (i : Instr) (s : State), ((∃ d, i = .idleData d) ∨ ∃ b, i = .idleUnk b) →
    ∃ t, exec i s = .next t ∧ t.ev = ⟨.none, 0, 0, 0, 0⟩ ∧ t.fvalid = false ∧
      t.pstate = s.pstate ∧ t.pkind = s.pkind ∧ t.rcount = s.rcount ∧ t.flen = s.flen ∧ bufSame s t ∧ framerKeeps s t

/-- R102, R103: a Program Change or Control Change status byte opens a message: BUF[0], PKIND, RCOUNT and PSTATE. -/
def Obligations.IdleChannelStatusOpensMessage : Prop :=
  (∀ b : Byte, b &&& 0xF0 = 0xC0 → decode .idle (.rxByte b) = .ok (.idlePc (b.extractLsb' 0 4))) ∧
  (∀ b : Byte, b &&& 0xF0 = 0xB0 → decode .idle (.rxByte b) = .ok (.idleCc (b.extractLsb' 0 4))) ∧
  ∀ (i : Instr) (b : Byte) (k : PKind) (s : State),
    (i = .idlePc (b.extractLsb' 0 4) ∧ b &&& 0xF0 = 0xC0 ∧ k = .pc ∨
      i = .idleCc (b.extractLsb' 0 4) ∧ b &&& 0xF0 = 0xB0 ∧ k = .cc) →
    ∃ t, exec i s = .next t ∧ t.buf.read 0 = some b ∧ bufSameBut 0 s t ∧ t.pkind = k ∧ t.rcount = 1 ∧
      t.pstate = .collect ∧ t.ev = ⟨.none, 0, 0, 0, 0⟩ ∧ t.fvalid = false ∧ t.flen = s.flen ∧ framerKeeps s t

/-- R104: `0xF0` opens a SysEx frame. That PKIND keeps its value where R24 leaves it unspecified is the model's choice
(log 20). -/
def Obligations.IdleSoxOpensFrame : Prop :=
  decode .idle (.rxByte 0xF0) = .ok .idleSox ∧
  ∀ s : State, ∃ t, exec .idleSox s = .next t ∧ t.buf.read 0 = some 0xF0 ∧ bufSameBut 0 s t ∧ t.rcount = 1 ∧
    t.pstate = .collectSysex ∧ t.pkind = s.pkind ∧ t.ev = ⟨.none, 0, 0, 0, 0⟩ ∧ t.fvalid = false ∧ t.flen = s.flen ∧
    framerKeeps s t

/-- R105: `0xFE` completes an Active Sense message at once, and writes no byte of BUF. That PKIND keeps
its value where R24 leaves it unspecified is the model's choice (log 20). -/
def Obligations.IdleActiveSenseCompletes : Prop :=
  decode .idle (.rxByte 0xFE) = .ok .idleAs ∧
  ∀ s : State, ∃ t, exec .idleAs s = .next t ∧ t.ev = ⟨.as, 0, 0, 0, 0⟩ ∧ bufSame s t ∧ t.pstate = s.pstate ∧
    t.pkind = s.pkind ∧ t.rcount = s.rcount ∧ t.flen = s.flen ∧ t.fvalid = false ∧ framerKeeps s t

/-- R107, R113, R114: a data byte is appended at RCOUNT; the message completes exactly when the new count is LEN(PKIND),
with the event of its kind, and goes back to IDLE; otherwise only the count rises. That PKIND keeps
its value in IDLE, where R24 leaves it unspecified, is the model's choice (log 20). -/
def Obligations.ColDataAppendsAndCompletes : Prop :=
  (∀ b : Byte, b &&& 0x80 = 0x00 → decode .collect (.rxByte b) = .ok (.colData (b.extractLsb' 0 7))) ∧
  ∀ (b : Byte) (s : State), b &&& 0x80 = 0x00 → s.rcount.toNat < Config.cap →
    ∃ t, exec (.colData (b.extractLsb' 0 7)) s = .next t ∧
      t.buf.read s.rcount.toNat = some b ∧ bufSameBut s.rcount.toNat s t ∧
      t.pkind = s.pkind ∧ t.flen = s.flen ∧ t.fvalid = false ∧ framerKeeps s t ∧
      (if s.rcount.toNat + 1 = (match s.pkind with | .pc => 2 | .cc => 3) then
        t.pstate = .idle ∧ t.rcount = 0 ∧
        t.ev = (match s.pkind with
          | .pc => ⟨.pc, (bufAt t 0).extractLsb' 0 4, (bufAt t 1).extractLsb' 0 7, 0, 0⟩
          | .cc => ⟨.cc, (bufAt t 0).extractLsb' 0 4, (bufAt t 1).extractLsb' 0 7, (bufAt t 2).extractLsb' 0 7, 0⟩)
      else t.pstate = s.pstate ∧ t.rcount.toNat = s.rcount.toNat + 1 ∧ t.ev = ⟨.none, 0, 0, 0, 0⟩)

/-- R108, R109, R112: an abort goes back to IDLE with RCOUNT 0, gives no event, writes no byte of BUF and consumes the
byte; the overflow guard is RCOUNT = CAP and comes before the byte is looked at. That PKIND keeps its value in IDLE,
where R24 leaves it unspecified, is the model's choice (log 20). -/
def Obligations.AbortsReturnToIdle : Prop :=
  (∀ b : Byte, b &&& 0x80 = 0x80 → decode .collect (.rxByte b) = .ok (.colStatus b)) ∧
  (∀ (b : Byte) (s : State), s.pstate = .collectSysex → s.rcount.toNat = Config.cap →
    decode (rxContext s) (.rxByte b) = .ok (.sxOverflow b)) ∧
  (∀ (b : Byte) (s : State), s.pstate = .collectSysex → s.rcount.toNat < Config.cap → b &&& 0x80 = 0x80 → b ≠ 0xF7 →
    decode (rxContext s) (.rxByte b) = .ok (.sxStatus b)) ∧
  ∀ (i : Instr) (b : Byte) (s : State), (i = .colStatus b ∨ i = .sxOverflow b ∨ i = .sxStatus b) →
    ∃ t, exec i s = .next t ∧ t.pstate = .idle ∧ t.rcount = 0 ∧ t.ev = ⟨.none, 0, 0, 0, 0⟩ ∧ t.fvalid = false ∧
      t.pkind = s.pkind ∧ t.flen = s.flen ∧ bufSame s t ∧ framerKeeps s t

/-- R110: a data byte is appended to the SysEx frame at RCOUNT. That PKIND keeps its value where R24 leaves it unspecified
is the model's choice (log 20). -/
def Obligations.SxDataAppends : Prop :=
  (∀ (b : Byte) (s : State), s.pstate = .collectSysex → s.rcount.toNat < Config.cap → b &&& 0x80 = 0x00 →
    decode (rxContext s) (.rxByte b) = .ok (.sxData (b.extractLsb' 0 7))) ∧
  ∀ (b : Byte) (s : State), b &&& 0x80 = 0x00 → s.rcount.toNat < Config.cap →
    ∃ t, exec (.sxData (b.extractLsb' 0 7)) s = .next t ∧
      t.buf.read s.rcount.toNat = some b ∧ bufSameBut s.rcount.toNat s t ∧ t.rcount.toNat = s.rcount.toNat + 1 ∧
      t.pstate = s.pstate ∧ t.pkind = s.pkind ∧ t.flen = s.flen ∧ t.fvalid = false ∧ t.ev = ⟨.none, 0, 0, 0, 0⟩ ∧
      framerKeeps s t

/-- R111: `0xF7` is appended at RCOUNT, FLEN and EV.len are RCOUNT + 1, and the valid frame window opens. That
PKIND keeps its value where R24 leaves it unspecified is the model's choice (log 20). -/
def Obligations.SxEoxCompletesFrame : Prop :=
  (∀ s : State, s.pstate = .collectSysex → s.rcount.toNat < Config.cap →
    decode (rxContext s) (.rxByte 0xF7) = .ok .sxEox) ∧
  ∀ s : State, s.rcount.toNat < Config.cap →
    ∃ t, exec .sxEox s = .next t ∧ t.buf.read s.rcount.toNat = some 0xF7 ∧ bufSameBut s.rcount.toNat s t ∧
      t.flen.toNat = s.rcount.toNat + 1 ∧ t.fvalid = true ∧ t.ev = ⟨.sysex, 0, 0, 0, t.flen⟩ ∧
      t.pstate = .idle ∧ t.rcount = 0 ∧ t.pkind = s.pkind ∧ framerKeeps s t

/-- The model's choice (log 11): a rule that stores at RCOUNT faults exactly when RCOUNT >= CAP, where BUF has no byte. -/
def Obligations.StoresPastBufferFault : Prop :=
  ∀ (i : Instr) (s : State), ((∃ d, i = .colData d) ∨ (∃ d, i = .sxData d) ∨ i = .sxEox) →
    (exec i s = .fault .bufOffset ↔ Config.cap ≤ s.rcount.toNat)

/-- R29, R33, R100: after a step on a received byte the valid frame window is open exactly when the byte was `0xF7` in
COLLECT_SYSEX with RCOUNT not at CAP. -/
def Obligations.OnlyEoxOpensWindow : Prop :=
  ∀ (s t : State) (b : Byte) (rest : List HostInput), s.inputs = .word (.rxByte b) :: rest → step s = .next t →
    (t.fvalid = true ↔ s.pstate = .collectSysex ∧ s.rcount.toNat ≠ Config.cap ∧ b = 0xF7)

/-- R117, R200: the four sources of an event, and no other: after a step on a received byte, EV has each kind exactly
when that kind's message is completed by the byte. -/
def Obligations.EventSources : Prop :=
  ∀ (s t : State) (b : Byte) (rest : List HostInput), s.inputs = .word (.rxByte b) :: rest → step s = .next t →
    (t.ev.kind = .as ↔ s.pstate = .idle ∧ b = 0xFE) ∧
    (t.ev.kind = .sysex ↔ s.pstate = .collectSysex ∧ s.rcount.toNat ≠ Config.cap ∧ b = 0xF7) ∧
    (t.ev.kind = .pc ↔ s.pstate = .collect ∧ b.toNat < 0x80 ∧ s.pkind = .pc ∧ s.rcount.toNat + 1 = 2) ∧
    (t.ev.kind = .cc ↔ s.pstate = .collect ∧ b.toNat < 0x80 ∧ s.pkind = .cc ∧ s.rcount.toNat + 1 = 3)

/-- R120: from states that agree on PSTATE, PKIND, RCOUNT and the bytes of the message being collected, one of which
meets the invariants, a step on the same byte gives the same event and the same next registers, and writes the same byte
of BUF at the same place; FLEN is either kept by both or given the same value. No draw plays a part: the states may
differ in everything else. -/
def Obligations.FramerStepIsDeterministic : Prop :=
  ∀ (s s' : State) (b : Byte) (rest rest' : List HostInput), Sound s →
    s.inputs = .word (.rxByte b) :: rest → s'.inputs = .word (.rxByte b) :: rest' →
    s'.pstate = s.pstate → s'.pkind = s.pkind → s'.rcount = s.rcount →
    (∀ i, i < s.rcount.toNat → s'.buf.read i = s.buf.read i) →
    ∃ t t', step s = .next t ∧ step s' = .next t' ∧
      t'.ev = t.ev ∧ t'.pstate = t.pstate ∧ t'.pkind = t.pkind ∧ t'.rcount = t.rcount ∧ t'.fvalid = t.fvalid ∧
      (t'.flen = t.flen ∨ t.flen = s.flen ∧ t'.flen = s'.flen) ∧
      ((bufSame s t ∧ bufSame s' t') ∨
        ∃ o, bufSameBut o s t ∧ bufSameBut o s' t' ∧ t'.buf.read o = t.buf.read o ∧ t.buf.read o ≠ none)

/-- S1, S2, R118: in IDLE, `[0xC0|ch, d]` gives no event and then the Program Change, `[0xB0|ch, c, v]` none, none and
then the Control Change; a data byte that follows is dropped: no running status. -/
def Obligations.ChannelMessagesAreFramed : Prop :=
  ∀ (s : State) (ch : BitVec 4) (x y z : BitVec 7) (rest : List HostInput), s.pstate = .idle →
    (feeds s [0xC#4 ++ ch, 0#1 ++ x, 0#1 ++ y] rest →
      ∃ t1 t2 t3, step s = .next t1 ∧ step t1 = .next t2 ∧ step t2 = .next t3 ∧
        t1.ev.kind = .none ∧ t2.ev = ⟨.pc, ch, x, 0, 0⟩ ∧ t2.pstate = .idle ∧ t3.ev.kind = .none ∧ t3.pstate = .idle ∧
        t3.inputs = rest) ∧
    (feeds s [0xB#4 ++ ch, 0#1 ++ x, 0#1 ++ y, 0#1 ++ z] rest →
      ∃ t1 t2 t3 t4, step s = .next t1 ∧ step t1 = .next t2 ∧ step t2 = .next t3 ∧ step t3 = .next t4 ∧
        t1.ev.kind = .none ∧ t2.ev.kind = .none ∧ t3.ev = ⟨.cc, ch, x, y, 0⟩ ∧ t3.pstate = .idle ∧
        t4.ev.kind = .none ∧ t4.pstate = .idle ∧ t4.inputs = rest)

/-- S3, R75, R78: fed in IDLE, `0xF0`, any body of bytes at most `0x7F`, and `0xF7`, at most CAP bytes in all, is received
whole: the last step emits SYSEX with the frame's length, and BUF holds the frame in an open window. -/
def Obligations.SysexFrameIsReceived : Prop :=
  ∀ (s : State) (payload : List Byte) (rest : List HostInput), s.pstate = .idle →
    (∀ b ∈ payload, b.toNat ≤ 0x7F) → payload.length + 2 ≤ Config.cap → feeds s (sysexFrame payload) rest →
    ∃ t : State, Host.Core.run Sys2Proof.core (payload.length + 2) s = .next t ∧
      holdsFrame t (sysexFrame payload) ∧ t.ev.kind = .sysex ∧ t.ev.len.toNat = payload.length + 2 ∧
      t.pstate = .idle ∧ t.rcount = 0 ∧ t.inputs = rest ∧ t.dres = s.dres ∧ t.dok = s.dok

/-- R109, R226: a frame that would need more than CAP bytes never completes: fed in IDLE whole, none of its steps gives an
event or opens the window, and it ends in IDLE. -/
def Obligations.OverlongFrameIsAborted : Prop :=
  ∀ (s : State) (payload : List Byte) (rest : List HostInput), s.pstate = .idle →
    (∀ b ∈ payload, b.toNat ≤ 0x7F) → Config.cap < payload.length + 2 → feeds s (sysexFrame payload) rest →
    ∀ k, 1 ≤ k → k ≤ payload.length + 2 →
      ∃ t : State, Host.Core.run Sys2Proof.core k s = .next t ∧ t.fvalid = false ∧ t.ev = ⟨.none, 0, 0, 0, 0⟩ ∧
        (k = payload.length + 2 → t.pstate = .idle ∧ t.inputs = rest)

/-- R27, R117: an event is not kept across steps: after a step in which the host did not give a received byte, whether a
decoder step, a reset or none, EV is NONE. R27 says that the event is gone; that EV reads NONE there is deduced from R117
(log 8). -/
def Obligations.EventIsOfItsOwnStep : Prop :=
  ∀ s t : State, (∀ b rest, s.inputs ≠ .word (.rxByte b) :: rest) → step s = .next t → t.ev = ⟨.none, 0, 0, 0, 0⟩

/-- R24: PKIND is written when a Program Change or Control Change status byte is accepted in IDLE, with its kind; every other
step but a reset keeps it. That PKIND keeps its value where R24 leaves it unspecified is the model's choice (log 20). -/
def Obligations.OnlyChannelStatusWritesPkind : Prop :=
  ∀ s t : State, (∀ rest, s.inputs ≠ .reset :: rest) → step s = .next t →
    (∀ b rest, s.inputs = .word (.rxByte b) :: rest → s.pstate = .idle →
      (b &&& 0xF0 = 0xC0 → t.pkind = .pc) ∧ (b &&& 0xF0 = 0xB0 → t.pkind = .cc)) ∧
    ((∀ b rest, s.inputs = .word (.rxByte b) :: rest → s.pstate = .idle → b &&& 0xF0 ≠ 0xC0 ∧ b &&& 0xF0 ≠ 0xB0) →
      t.pkind = s.pkind)

/-- R33: no step but a decoder step or a reset writes D.res or D.ok; they hold until the next decoder step. -/
def Obligations.FramerKeepsDecoderResults : Prop :=
  ∀ s t : State, (∀ w rest, s.inputs ≠ .word (.dcmd w) :: rest) → (∀ rest, s.inputs ≠ .reset :: rest) →
    step s = .next t → t.dres = s.dres ∧ t.dok = s.dok

/-! ### BUF (spec/20_memory.md) -/

/-- R55: the guarded read returns `BUF[i]` inside the valid frame, which is the byte written there, and outside it, whether
past FLEN or with the window closed, a draw of its own for every call of the step. -/
def Obligations.GuardedReadIsDrawOutsideFrame : Prop :=
  ∀ (s : State) (k i : Nat),
    (s.fvalid = true → i < s.flen.toNat → byteAt s k i = bufAt s i ∧ ∀ v, s.buf.read i = some v → byteAt s k i = v) ∧
    (s.fvalid = false ∨ s.flen.toNat ≤ i → byteAt s k i = Config.draw8 s.draws k)

/-! ### The decoder's operations (spec/41_decoder.md) -/

/-- R56: a decoder operation issued while FVALID = 0 returns draws for D.res and D.ok. -/
def Obligations.ClosedWindowGivesDraws : Prop :=
  ∀ (i : Instr) (s : State), i.isDecoder = true → s.fvalid = false →
    Answers i s (Config.draw32 s.draws) (Config.draw1 s.draws)

/-- R30, R140: a decoder step from any state completes, and writes D.res and D.ok and no other register. An earlier step's
event is not kept (R27); that EV reads NONE after a decoder step is deduced from R117 (log 8). -/
def Obligations.DecoderStepKeepsFramer : Prop :=
  ∀ (i : Instr) (s : State), i.isDecoder = true →
    ∃ t, exec i s = .next t ∧ decoderKeeps s t ∧ t.ev = ⟨.none, 0, 0, 0, 0⟩

/-- R142: GETB. -/
def Obligations.GetbReadsRawByte : Prop :=
  commandSpells 0x1 (fun a _ => .getb a) ∧
  ∀ (a : BitVec 16) (s : State), s.fvalid = true →
    (a.toNat < s.flen.toNat → Answers (.getb a) s ((bufAt s a.toNat).setWidth 32) true) ∧
    (s.flen.toNat ≤ a.toNat → Answers (.getb a) s ((Config.draw8 s.draws 0).setWidth 32) true) ∧
    (Sound s → Answers (.getb 0) s 0xF0 true ∧ (a.toNat + 1 = s.flen.toNat → Answers (.getb a) s 0xF7 true))

/-- R143: GET7. -/
def Obligations.Get7ReadsSevenBits : Prop :=
  commandSpells 0x2 (fun a _ => .get7 a) ∧
  ∀ (a : BitVec 16) (s : State), s.fvalid = true →
    (a.toNat < s.flen.toNat → Answers (.get7 a) s ((bufAt s a.toNat &&& 0x7F).setWidth 32) true) ∧
    (s.flen.toNat ≤ a.toNat → Answers (.get7 a) s ((Config.draw8 s.draws 0 &&& 0x7F).setWidth 32) true) ∧
    (Sound s → Answers (.get7 0) s 0x70 true ∧ (a.toNat + 1 = s.flen.toNat → Answers (.get7 a) s 0x77 true))

/-- R144: GET14, by the formula of R81; each byte at or past FLEN is a draw. -/
def Obligations.Get14ReadsBigEndian : Prop :=
  commandSpells 0x3 (fun a _ => .get14 a) ∧
  ∀ (a : BitVec 16) (s : State), s.fvalid = true →
    Answers (.get14 a) s
      (((byteAt s 0 a.toNat &&& 0x7F).setWidth 32 <<< 7) ||| (byteAt s 1 (a.toNat + 1) &&& 0x7F).setWidth 32) true

/-- R145: GET31, by the formula of R82; each byte at or past FLEN is a draw. -/
def Obligations.Get31ReadsBigEndian : Prop :=
  commandSpells 0x4 (fun a _ => .get31 a) ∧
  ∀ (a : BitVec 16) (s : State), s.fvalid = true →
    Answers (.get31 a) s
      (((byteAt s 0 a.toNat &&& 0x0F).setWidth 32 <<< 28) ||| ((byteAt s 1 (a.toNat + 1) &&& 0x7F).setWidth 32 <<< 21) |||
        ((byteAt s 2 (a.toNat + 2) &&& 0x7F).setWidth 32 <<< 14) |||
        ((byteAt s 3 (a.toNat + 3) &&& 0x7F).setWidth 32 <<< 7) ||| (byteAt s 4 (a.toNat + 4) &&& 0x7F).setWidth 32) true

/-- R146: MFREQ. -/
def Obligations.MfreqComparesManufacturer : Prop :=
  commandSpells 0x5 (fun _ b => .mfreq b) ∧
  ∀ (b : BitVec 24) (s : State), s.fvalid = true →
    let m : BitVec 24 := ((byteAt s 0 1).setWidth 24 <<< 16) ||| ((byteAt s 1 2).setWidth 24 <<< 8) |||
      (byteAt s 2 3).setWidth 24
    Answers (.mfreq b) s (m.setWidth 32) (m == b)

/-- R147: XORCK, over the bytes 0 to FLEN-3. -/
def Obligations.XorckChecksTheFrame : Prop :=
  commandSpells 0x6 (fun _ _ => .xorck) ∧
  ∀ s : State, s.fvalid = true → 2 ≤ s.flen.toNat →
    let x : Byte := (List.range (s.flen.toNat - 2)).foldl (fun x i => x ^^^ bufAt s i) 0
    Answers .xorck s ((x &&& 0x7F).setWidth 32) (x &&& 0x7F == bufAt s (s.flen.toNat - 2))

/-- R148: GETLEN. -/
def Obligations.GetlenReadsFlen : Prop :=
  commandSpells 0xC (fun _ _ => .getlen) ∧
  ∀ s : State, s.fvalid = true →
    Answers .getlen s (BitVec.ofNat 32 s.flen.toNat) true ∧ (Sound s → 2 ≤ s.flen.toNat ∧ s.flen.toNat ≤ Config.cap)

/-- R155: BLKCNT; draws when FLEN < 6. -/
def Obligations.BlkcntCountsChunks : Prop :=
  commandSpells 0x7 (fun _ _ => .blkcnt) ∧
  ∀ s : State, s.fvalid = true →
    (6 ≤ s.flen.toNat → Answers .blkcnt s (BitVec.ofNat 32 ((s.flen.toNat - 6) / 5)) true) ∧
    (s.flen.toNat < 6 → Answers .blkcnt s (Config.draw32 s.draws) (Config.draw1 s.draws))

/-- R157: BLKOFF; not found at and past the count; draws when FLEN < 6. -/
def Obligations.BlkoffBoundsTheIndex : Prop :=
  commandSpells 0x8 (fun a _ => .blkoff a) ∧
  ∀ (a : BitVec 16) (s : State), s.fvalid = true →
    (6 ≤ s.flen.toNat → a.toNat < (s.flen.toNat - 6) / 5 →
      ∃ r : BitVec 32, r.toNat = 6 + 5 * a.toNat ∧ Answers (.blkoff a) s r true) ∧
    (6 ≤ s.flen.toNat → (s.flen.toNat - 6) / 5 ≤ a.toNat → Answers (.blkoff a) s 0 false) ∧
    (s.flen.toNat < 6 → Answers (.blkoff a) s (Config.draw32 s.draws) (Config.draw1 s.draws))

/-- R158: MULTI14, with its bound check. -/
def Obligations.Multi14BoundsTheIndex : Prop :=
  commandSpells 0x9 (fun a _ => .multi14 a) ∧
  ∀ (a : BitVec 16) (s : State), s.fvalid = true →
    let off := 10 + 2 * a.toNat
    (s.flen.toNat < off + 2 → Answers (.multi14 a) s 0 false) ∧
    (off + 2 ≤ s.flen.toNat → Answers (.multi14 a) s
      (((bufAt s off &&& 0x7F).setWidth 32 <<< 7) ||| (bufAt s (off + 1) &&& 0x7F).setWidth 32) true)

/-- R159: MULTI31, with its bound check. -/
def Obligations.Multi31BoundsTheIndex : Prop :=
  commandSpells 0xA (fun a _ => .multi31 a) ∧
  ∀ (a : BitVec 16) (s : State), s.fvalid = true →
    let off := 13 + 5 * a.toNat
    (s.flen.toNat < off + 5 → Answers (.multi31 a) s 0 false) ∧
    (off + 5 ≤ s.flen.toNat → Answers (.multi31 a) s
      (((bufAt s off &&& 0x0F).setWidth 32 <<< 28) ||| ((bufAt s (off + 1) &&& 0x7F).setWidth 32 <<< 21) |||
        ((bufAt s (off + 2) &&& 0x7F).setWidth 32 <<< 14) ||| ((bufAt s (off + 3) &&& 0x7F).setWidth 32 <<< 7) |||
        (bufAt s (off + 4) &&& 0x7F).setWidth 32) true)

/-- R161: STRLEN counts the bytes before the first `0x00`, at most the limit of STR_ROOM, and never the frame's last
byte; D.ok tells whether the first byte not counted is a `0x00` inside the frame. STR_ROOM is open: both its values are
covered. -/
def Obligations.StrlenMeasuresTheString : Prop :=
  commandSpells 0xB (fun a b => .strlen a b) ∧
  ∀ (a : BitVec 16) (b : BitVec 24) (s : State), s.fvalid = true →
    let limit := match Config.strRoom with
      | .maxlenMinus1 => if b.toNat = 0 then 0 else b.toNat - 1
      | .maxlen => b.toNat
    ∃ (n : Nat) (r : BitVec 32) (ok : Bool), r.toNat = n ∧ Answers (.strlen a b) s r ok ∧ n ≤ limit ∧
      (∀ j, j < n → a.toNat + j + 1 < s.flen.toNat ∧ bufAt s (a.toNat + j) ≠ 0x00) ∧
      (n = limit ∨ s.flen.toNat ≤ a.toNat + n + 1 ∨ bufAt s (a.toNat + n) = 0x00) ∧
      (ok = true ↔ a.toNat + n + 1 < s.flen.toNat ∧ bufAt s (a.toNat + n) = 0x00)

/-! ### Derived properties (spec/41_decoder.md sections 4 to 7, spec/95_test_vectors.md section 1) -/

/-- R140, R65: a decoder result depends on nothing but FLEN, the bytes of the frame, the operands and the draws: two
states inside a valid frame window that agree on FLEN, on BUF[0..FLEN-1] and on the draw counter, the model's own (log 5),
give the same result. -/
def Obligations.DecoderSeesOnlyTheFrame : Prop :=
  ∀ (i : Instr) (s s' t t' : State), i.isDecoder = true → s.fvalid = true → s'.fvalid = true → s'.flen = s.flen →
    s'.draws = s.draws → (∀ k, k < s.flen.toNat → s'.buf.read k = s.buf.read k) →
    exec i s = .next t → exec i s' = .next t' → t'.dres = t.dres ∧ t'.dok = t.dok

/-- R154: two decoder steps with the same command agree, whatever decoder operations come between them, where no draw is
involved. -/
def Obligations.RepeatedCommandAgrees : Prop :=
  ∀ (i : Instr) (s : State), i.isDecoder = true → drawFree i s →
    ∃ t, exec i s = .next t ∧ ∀ js : List Instr, (∀ j ∈ js, j.isDecoder = true) →
      ∃ u v, execAll js t = some u ∧ exec i u = .next v ∧ v.dres = t.dres ∧ v.dok = t.dok

/-- R149: a 14-bit value round-trips through its two bytes; at offset 10 this is the Kemper single parameter. -/
def Obligations.FourteenBitRoundTrip : Prop :=
  (∀ (a : BitVec 16) (v : BitVec 14) (s : State), s.fvalid = true → a.toNat + 2 + 1 ≤ s.flen.toNat →
    s.buf.read a.toNat = some ((v >>> 7).setWidth 8 &&& 0x7F) →
    s.buf.read (a.toNat + 1) = some (v.setWidth 8 &&& 0x7F) →
    Answers (.get14 a) s (v.setWidth 32) true) ∧
  (∀ (f : BitVec 7) (addr v : BitVec 14) (s : State), holdsFrame s (kemperSingle f addr v) →
    Answers (.get14 8) s (addr.setWidth 32) true ∧ Answers (.get14 10) s (v.setWidth 32) true)

/-- R150: a 32-bit value round-trips through its five bytes, by GET31 and, at a value's offset, by MULTI31. -/
def Obligations.ThirtyOneBitRoundTrip : Prop :=
  ∀ (a : BitVec 16) (v : BitVec 32) (s : State), s.fvalid = true → a.toNat + 5 + 1 ≤ s.flen.toNat →
    s.buf.read a.toNat = some ((v >>> 28).setWidth 8 &&& 0x0F) →
    s.buf.read (a.toNat + 1) = some ((v >>> 21).setWidth 8 &&& 0x7F) →
    s.buf.read (a.toNat + 2) = some ((v >>> 14).setWidth 8 &&& 0x7F) →
    s.buf.read (a.toNat + 3) = some ((v >>> 7).setWidth 8 &&& 0x7F) →
    s.buf.read (a.toNat + 4) = some (v.setWidth 8 &&& 0x7F) →
    Answers (.get31 a) s v true ∧ ∀ i : BitVec 16, a.toNat = 13 + 5 * i.toNat → Answers (.multi31 i) s v true

/-- R151, first sentence: inside the body of a valid frame GET7 and GETB return the same value. -/
def Obligations.Get7EqualsGetbInTheBody : Prop :=
  ∀ (a : BitVec 16) (s : State), Sound s → s.fvalid = true → 1 ≤ a.toNat → a.toNat + 2 ≤ s.flen.toNat →
    ∃ r, Answers (.getb a) s r true ∧ Answers (.get7 a) s r true

/-- R152: the manufacturer checks, on a frame of at least four bytes. -/
def Obligations.ManufacturerCheckIsExact : Prop :=
  ∀ (s : State) (bs : List Byte), holdsFrame s bs → bs[0]? = some 0xF0 → 4 ≤ bs.length →
    ((∃ r, Answers (.mfreq 0x000174) s r true) ↔ bs.take 4 = [0xF0, 0x00, 0x01, 0x74]) ∧
    ((∃ r, Answers (.mfreq 0x002033) s r true) ↔ bs.take 4 = [0xF0, 0x00, 0x20, 0x33])

/-- R153: XORCK accepts every frame whose checksum was computed by R86, and the full 8-bit XOR of the bytes before `0xF7`
is `0x80` there. -/
def Obligations.ChecksumVerifiesItself : Prop :=
  ∀ (s : State) (model func : BitVec 7) (payload : List Byte), (∀ b ∈ payload, b.toNat ≤ 0x7F) →
    holdsFrame s (axefxFrame model func payload) →
    (∃ r, Answers .xorck s r true) ∧ xorAll ((axefxFrame model func payload).take (s.flen.toNat - 1)) = 0x80

/-- R156: on an effect-block response of N chunks BLKCNT returns N, and both readings of the count agree. -/
def Obligations.EffectBlockCountIsExact : Prop :=
  ∀ (s : State) (model func : BitVec 7) (chunks : List (Vector Byte 5)),
    holdsFrame s (effectBlockFrame model func chunks) →
    s.flen.toNat = 8 + 5 * chunks.length ∧ Answers .blkcnt s (BitVec.ofNat 32 chunks.length) true ∧
    (s.flen.toNat - 8) / 5 = chunks.length

/-- R160: on a conforming frame of N values exactly the indices below N are found, each with its value, for the 14-bit and
for the 31-bit reader. -/
def Obligations.MultiReadsYieldAllValues : Prop :=
  (∀ (s : State) (f : BitVec 7) (addr : BitVec 14) (vs : List (BitVec 14)), holdsFrame s (kemperMulti f addr vs) →
    ∀ i : BitVec 16,
      (∀ v, vs[i.toNat]? = some v → Answers (.multi14 i) s (v.setWidth 32) true) ∧
      (vs.length ≤ i.toNat → Answers (.multi14 i) s 0 false)) ∧
  (∀ (s : State) (f : BitVec 7) (addr : BitVec 32) (vs : List (BitVec 32)), holdsFrame s (kemperExtended f addr vs) →
    ∀ i : BitVec 16,
      (∀ v, vs[i.toNat]? = some v → Answers (.multi31 i) s v true) ∧
      (vs.length ≤ i.toNat → Answers (.multi31 i) s 0 false))

/-- S8, R88, R161: on a preset-name response, the name's length is measured whole under either value of STR_ROOM, when
`max_len` leaves room for the name and its terminator. -/
def Obligations.PresetNameIsMeasured : Prop :=
  ∀ (s : State) (model : BitVec 7) (name : List Byte) (m : BitVec 24),
    holdsFrame s (presetNameFrame model name) → (∀ b ∈ name, b ≠ 0x00) → name.length + 1 ≤ m.toNat →
    Answers (.get7 5) s 0x0F true ∧ Answers (.strlen 6 m) s (BitVec.ofNat 32 name.length) true

/-! ### Parameters and pseudo-operations -/

/-- R6: in the block of every capacity, W is the width of RCOUNT, FLEN and EV.len, and it is the least number of bits that
holds the value CAP: each of the three registers holds every count up to CAP, and each count it can hold fits every width
that holds CAP. For CAP = 256 they hold the 9-bit numbers. -/
def Obligations.CountWidthIsLeast : Prop :=
  (∀ C : Capacity,
    (∀ n, n ≤ C.bytes → ∃ s : State C, s.rcount.toNat = n ∧ s.flen.toNat = n ∧ s.ev.len.toNat = n) ∧
    ∀ w, (BitVec.ofNat w C.bytes).toNat = C.bytes →
      ∀ s : State C, s.rcount.toNat < 2 ^ w ∧ s.flen.toNat < 2 ^ w ∧ s.ev.len.toNat < 2 ^ w) ∧
  Config.cap = 256 ∧ ∀ n, (∃ s : State, s.rcount.toNat = n ∧ s.flen.toNat = n ∧ s.ev.len.toNat = n) ↔ n < 2 ^ 9

/-- R5: CAP is a parameter of at least 3, and the machine the host runs is its instance at the spec's value 256 (log 2). -/
def Obligations.StepIsTheInstanceAt256 : Prop :=
  (∀ C : Capacity, 3 ≤ C.bytes) ∧ (∀ n, 3 ≤ n → ∃ C : Capacity, C.bytes = n) ∧ Config.cap = 256 ∧
  State.reset = State.resetAt Config.capacity ∧ (∀ i (s : State), exec i s = execAt i s) ∧ ∀ s : State, step s = stepAt s

/-- R5, R36: in the block of every capacity the reset state meets the invariants, and every step keeps them, with the
canonical form of BUF, which is the model's choice (log 6), and its range of offsets. -/
def Obligations.EveryCapacityKeepsInvariants : Prop :=
  ∀ C : Capacity, Sound (State.resetAt C) ∧ ∀ s t : State C, Sound s → stepAt s = .next t → Sound t

/-- R5, R100, R109: in the block of every capacity a step on a received byte, from a state that meets the invariants, gives
a next state; a byte in COLLECT_SYSEX with RCOUNT = CAP aborts; and one that is stored, data or `0xF7`, is stored below
CAP. -/
def Obligations.EveryCapacityBoundsTheFrame : Prop :=
  ∀ (C : Capacity) (s : State C) (b : Byte) (rest : List HostInput), Sound s → s.inputs = .word (.rxByte b) :: rest →
    ∃ t : State C, stepAt s = .next t ∧
      (s.pstate = .collectSysex → s.rcount.toNat = C.bytes →
        t.pstate = .idle ∧ t.rcount = 0 ∧ t.fvalid = false ∧ t.ev = ⟨.none, 0, 0, 0, 0⟩ ∧ bufSame s t) ∧
      (s.pstate = .collectSysex → s.rcount.toNat < C.bytes → b.toNat ≤ 0x7F →
        t.pstate = .collectSysex ∧ t.rcount.toNat = s.rcount.toNat + 1 ∧ t.buf.read s.rcount.toNat = some b ∧
        bufSameBut s.rcount.toNat s t) ∧
      (s.pstate = .collectSysex → s.rcount.toNat < C.bytes → b = 0xF7 →
        t.fvalid = true ∧ t.flen.toNat = s.rcount.toNat + 1 ∧ t.ev = ⟨.sysex, 0, 0, 0, t.flen⟩ ∧
        t.buf.read s.rcount.toNat = some b ∧ bufSameBut s.rcount.toNat s t)

/-- R97: the vendor accessors are the commands the table gives, by their words. -/
def Obligations.AccessorsExpandToCommands : Prop :=
  encode (expand .axeMfrOk) = .dcmd 0x000174000005 ∧ encode (expand .axeModel) = .dcmd 0x000000000402 ∧
  encode (expand .axeFunc) = .dcmd 0x000000000502 ∧ encode (expand .axeCksumOk) = .dcmd 0x000000000006 ∧
  encode (expand .axeBlkcnt) = .dcmd 0x000000000007 ∧ encode (expand .kpaMfrOk) = .dcmd 0x002033000005 ∧
  encode (expand .kpaProduct) = .dcmd 0x000000000402 ∧ encode (expand .kpaDevice) = .dcmd 0x000000000502 ∧
  encode (expand .kpaFunc) = .dcmd 0x000000000602 ∧ encode (expand .kpaInstance) = .dcmd 0x000000000702 ∧
  encode (expand .kpaAddr) = .dcmd 0x000000000803 ∧ encode (expand .kpaExtaddr) = .dcmd 0x000000000804 ∧
  encode (expand .kpaValue) = .dcmd 0x000000000A03 ∧ expand .kpaAsc = .get7 Config.kpaAscOffset ∧
  (∀ i, expand (.axeBlk i) = .blkoff i ∧ expand (.kpaMulti i) = .multi14 i ∧ expand (.kpaExtmulti i) = .multi31 i) ∧
  ∀ m, expand (.axeName m) = .strlen 6 m ∧ expand (.kpaStr m) = .strlen 10 m ∧ expand (.kpaExtstr m) = .strlen 13 m
end

