-- ==== Sys2Proof/Laws/Memory.lean ====
section
/-! SUPPORT. The laws of BUF: a read after a write, and the canonical form that a write keeps. -/

namespace Sys2Proof.Machine

@[simp] theorem Memory.read_nil (i : Nat) : Memory.read [] i = none := rfl

/-- A byte reads as it was written last, and a write leaves every other byte alone. -/
theorem Memory.read_write (m : Memory) (i j : Nat) (v : Byte) :
    (m.write i v).read j = if j = i then some v else m.read j := by
  induction m with
  | nil => simp [Memory.write, Memory.read]
  | cons c m ih =>
    obtain ⟨a, u⟩ := c
    simp only [Memory.write]
    split
    · simp [Memory.read]
    · split
      · subst_vars
        simp only [Memory.read]
        split <;> rfl
      · simp only [Memory.read, ih]
        split <;> split <;> simp_all

@[simp] theorem Memory.read_write_same (m : Memory) (i : Nat) (v : Byte) : (m.write i v).read i = some v := by
  simp [Memory.read_write]

theorem Memory.read_write_other (m : Memory) {i j : Nat} (v : Byte) (h : j ≠ i) : (m.write i v).read j = m.read j := by
  simp [Memory.read_write, h]

/-- In a canonical memory every offset after the head is above the head's. -/
theorem Memory.wf_cons_iff (a : Nat) (u : Byte) (m : Memory) :
    Memory.wf ((a, u) :: m) = true ↔ (∀ c ∈ m.head?, a < c.1) ∧ m.wf = true := by
  cases m with
  | nil => simp [Memory.wf]
  | cons c m => simp [Memory.wf]

theorem Memory.write_head (m : Memory) (i : Nat) (v : Byte) :
    ∀ c ∈ (m.write i v).head?, c.1 = i ∨ ∃ d ∈ m.head?, c.1 = d.1 := by
  cases m with
  | nil => simp [Memory.write]
  | cons d m =>
    simp only [Memory.write]
    split
    · simp
    · split <;> simp_all

/-- A write keeps the canonical form. -/
theorem Memory.wf_write (m : Memory) (i : Nat) (v : Byte) (h : m.wf = true) : (m.write i v).wf = true := by
  induction m with
  | nil => rfl
  | cons c m ih =>
    obtain ⟨a, u⟩ := c
    rw [Memory.wf_cons_iff] at h
    simp only [Memory.write]
    split
    · rename_i hlt
      rw [Memory.wf_cons_iff, Memory.wf_cons_iff]
      exact ⟨by simpa using hlt, h⟩
    · split
      · subst_vars
        exact (Memory.wf_cons_iff _ _ _).2 h
      · rename_i hn hne
        rw [Memory.wf_cons_iff]
        refine ⟨fun c hc => ?_, ih h.2⟩
        rcases Memory.write_head m i v c hc with h' | ⟨d, hd, h'⟩
        · omega
        · exact h' ▸ h.1 d hd

end Sys2Proof.Machine
end

