-- ==== Sys2Proof/Laws/State.lean ====
section
/-! SUPPORT. What each named update of the state does to each field: one lemma per field per update, true by definition. -/

namespace Sys2Proof.Machine

variable {C : Capacity}

@[simp] theorem noEvent_pstate (s : State C) : (noEvent s).pstate = s.pstate := rfl
@[simp] theorem noEvent_pkind (s : State C) : (noEvent s).pkind = s.pkind := rfl
@[simp] theorem noEvent_rcount (s : State C) : (noEvent s).rcount = s.rcount := rfl
@[simp] theorem noEvent_buf (s : State C) : (noEvent s).buf = s.buf := rfl
@[simp] theorem noEvent_flen (s : State C) : (noEvent s).flen = s.flen := rfl
@[simp] theorem noEvent_fvalid (s : State C) : (noEvent s).fvalid = s.fvalid := rfl
@[simp] theorem noEvent_dres (s : State C) : (noEvent s).dres = s.dres := rfl
@[simp] theorem noEvent_dok (s : State C) : (noEvent s).dok = s.dok := rfl
@[simp] theorem noEvent_inputs (s : State C) : (noEvent s).inputs = s.inputs := rfl
@[simp] theorem noEvent_cause (s : State C) : (noEvent s).cause = s.cause := rfl
@[simp] theorem noEvent_draws (s : State C) : (noEvent s).draws = s.draws := rfl
@[simp] theorem noEvent_ev (s : State C) : (noEvent s).ev = Event.empty := rfl

@[simp] theorem prologue_pstate (s : State C) : (prologue s).pstate = s.pstate := rfl
@[simp] theorem prologue_pkind (s : State C) : (prologue s).pkind = s.pkind := rfl
@[simp] theorem prologue_rcount (s : State C) : (prologue s).rcount = s.rcount := rfl
@[simp] theorem prologue_buf (s : State C) : (prologue s).buf = s.buf := rfl
@[simp] theorem prologue_flen (s : State C) : (prologue s).flen = s.flen := rfl
@[simp] theorem prologue_fvalid (s : State C) : (prologue s).fvalid = false := rfl
@[simp] theorem prologue_ev (s : State C) : (prologue s).ev = Event.empty := rfl
@[simp] theorem prologue_dres (s : State C) : (prologue s).dres = s.dres := rfl
@[simp] theorem prologue_dok (s : State C) : (prologue s).dok = s.dok := rfl
@[simp] theorem prologue_inputs (s : State C) : (prologue s).inputs = s.inputs := rfl
@[simp] theorem prologue_cause (s : State C) : (prologue s).cause = none := rfl
@[simp] theorem prologue_draws (s : State C) : (prologue s).draws = s.draws := rfl

@[simp] theorem drop_pstate (c : Cause) (s : State C) : (drop c s).pstate = s.pstate := rfl
@[simp] theorem drop_pkind (c : Cause) (s : State C) : (drop c s).pkind = s.pkind := rfl
@[simp] theorem drop_rcount (c : Cause) (s : State C) : (drop c s).rcount = s.rcount := rfl
@[simp] theorem drop_buf (c : Cause) (s : State C) : (drop c s).buf = s.buf := rfl
@[simp] theorem drop_flen (c : Cause) (s : State C) : (drop c s).flen = s.flen := rfl
@[simp] theorem drop_fvalid (c : Cause) (s : State C) : (drop c s).fvalid = s.fvalid := rfl
@[simp] theorem drop_ev (c : Cause) (s : State C) : (drop c s).ev = s.ev := rfl
@[simp] theorem drop_dres (c : Cause) (s : State C) : (drop c s).dres = s.dres := rfl
@[simp] theorem drop_dok (c : Cause) (s : State C) : (drop c s).dok = s.dok := rfl
@[simp] theorem drop_inputs (c : Cause) (s : State C) : (drop c s).inputs = s.inputs := rfl
@[simp] theorem drop_cause (c : Cause) (s : State C) : (drop c s).cause = some c := rfl
@[simp] theorem drop_draws (c : Cause) (s : State C) : (drop c s).draws = s.draws := rfl

@[simp] theorem abort_pstate (c : Cause) (s : State C) : (abort c s).pstate = .idle := rfl
@[simp] theorem abort_pkind (c : Cause) (s : State C) : (abort c s).pkind = s.pkind := rfl
@[simp] theorem abort_rcount (c : Cause) (s : State C) : (abort c s).rcount = 0 := rfl
@[simp] theorem abort_buf (c : Cause) (s : State C) : (abort c s).buf = s.buf := rfl
@[simp] theorem abort_flen (c : Cause) (s : State C) : (abort c s).flen = s.flen := rfl
@[simp] theorem abort_fvalid (c : Cause) (s : State C) : (abort c s).fvalid = s.fvalid := rfl
@[simp] theorem abort_ev (c : Cause) (s : State C) : (abort c s).ev = s.ev := rfl
@[simp] theorem abort_dres (c : Cause) (s : State C) : (abort c s).dres = s.dres := rfl
@[simp] theorem abort_dok (c : Cause) (s : State C) : (abort c s).dok = s.dok := rfl
@[simp] theorem abort_inputs (c : Cause) (s : State C) : (abort c s).inputs = s.inputs := rfl
@[simp] theorem abort_cause (c : Cause) (s : State C) : (abort c s).cause = some c := rfl
@[simp] theorem abort_draws (c : Cause) (s : State C) : (abort c s).draws = s.draws := rfl

@[simp] theorem toIdle_pstate (s : State C) : (toIdle s).pstate = .idle := rfl
@[simp] theorem toIdle_pkind (s : State C) : (toIdle s).pkind = s.pkind := rfl
@[simp] theorem toIdle_rcount (s : State C) : (toIdle s).rcount = 0 := rfl
@[simp] theorem toIdle_buf (s : State C) : (toIdle s).buf = s.buf := rfl
@[simp] theorem toIdle_flen (s : State C) : (toIdle s).flen = s.flen := rfl
@[simp] theorem toIdle_fvalid (s : State C) : (toIdle s).fvalid = s.fvalid := rfl
@[simp] theorem toIdle_ev (s : State C) : (toIdle s).ev = s.ev := rfl
@[simp] theorem toIdle_dres (s : State C) : (toIdle s).dres = s.dres := rfl
@[simp] theorem toIdle_dok (s : State C) : (toIdle s).dok = s.dok := rfl
@[simp] theorem toIdle_inputs (s : State C) : (toIdle s).inputs = s.inputs := rfl
@[simp] theorem toIdle_cause (s : State C) : (toIdle s).cause = s.cause := rfl
@[simp] theorem toIdle_draws (s : State C) : (toIdle s).draws = s.draws := rfl

@[simp] theorem emit_pstate (e : Event C) (s : State C) : (emit e s).pstate = s.pstate := rfl
@[simp] theorem emit_pkind (e : Event C) (s : State C) : (emit e s).pkind = s.pkind := rfl
@[simp] theorem emit_rcount (e : Event C) (s : State C) : (emit e s).rcount = s.rcount := rfl
@[simp] theorem emit_buf (e : Event C) (s : State C) : (emit e s).buf = s.buf := rfl
@[simp] theorem emit_flen (e : Event C) (s : State C) : (emit e s).flen = s.flen := rfl
@[simp] theorem emit_fvalid (e : Event C) (s : State C) : (emit e s).fvalid = s.fvalid := rfl
@[simp] theorem emit_ev (e : Event C) (s : State C) : (emit e s).ev = e := rfl
@[simp] theorem emit_dres (e : Event C) (s : State C) : (emit e s).dres = s.dres := rfl
@[simp] theorem emit_dok (e : Event C) (s : State C) : (emit e s).dok = s.dok := rfl
@[simp] theorem emit_inputs (e : Event C) (s : State C) : (emit e s).inputs = s.inputs := rfl
@[simp] theorem emit_cause (e : Event C) (s : State C) : (emit e s).cause = s.cause := rfl
@[simp] theorem emit_draws (e : Event C) (s : State C) : (emit e s).draws = s.draws := rfl

@[simp] theorem openMessage_pstate (p : PState) (b : Byte) (s : State C) : (openMessage p b s).pstate = p := rfl
@[simp] theorem openMessage_pkind (p : PState) (b : Byte) (s : State C) : (openMessage p b s).pkind = s.pkind := rfl
@[simp] theorem openMessage_rcount (p : PState) (b : Byte) (s : State C) : (openMessage p b s).rcount = 1 := rfl
@[simp] theorem openMessage_buf (p : PState) (b : Byte) (s : State C) : (openMessage p b s).buf = s.buf.write 0 b := rfl
@[simp] theorem openMessage_flen (p : PState) (b : Byte) (s : State C) : (openMessage p b s).flen = s.flen := rfl
@[simp] theorem openMessage_fvalid (p : PState) (b : Byte) (s : State C) : (openMessage p b s).fvalid = s.fvalid := rfl
@[simp] theorem openMessage_ev (p : PState) (b : Byte) (s : State C) : (openMessage p b s).ev = s.ev := rfl
@[simp] theorem openMessage_dres (p : PState) (b : Byte) (s : State C) : (openMessage p b s).dres = s.dres := rfl
@[simp] theorem openMessage_dok (p : PState) (b : Byte) (s : State C) : (openMessage p b s).dok = s.dok := rfl
@[simp] theorem openMessage_inputs (p : PState) (b : Byte) (s : State C) : (openMessage p b s).inputs = s.inputs := rfl
@[simp] theorem openMessage_cause (p : PState) (b : Byte) (s : State C) : (openMessage p b s).cause = s.cause := rfl
@[simp] theorem openMessage_draws (p : PState) (b : Byte) (s : State C) : (openMessage p b s).draws = s.draws := rfl

@[simp] theorem countUp_pstate (s : State C) : (countUp s).pstate = s.pstate := rfl
@[simp] theorem countUp_pkind (s : State C) : (countUp s).pkind = s.pkind := rfl
@[simp] theorem countUp_rcount (s : State C) : (countUp s).rcount = s.rcount + 1 := rfl
@[simp] theorem countUp_buf (s : State C) : (countUp s).buf = s.buf := rfl
@[simp] theorem countUp_flen (s : State C) : (countUp s).flen = s.flen := rfl
@[simp] theorem countUp_fvalid (s : State C) : (countUp s).fvalid = s.fvalid := rfl
@[simp] theorem countUp_ev (s : State C) : (countUp s).ev = s.ev := rfl
@[simp] theorem countUp_dres (s : State C) : (countUp s).dres = s.dres := rfl
@[simp] theorem countUp_dok (s : State C) : (countUp s).dok = s.dok := rfl
@[simp] theorem countUp_inputs (s : State C) : (countUp s).inputs = s.inputs := rfl
@[simp] theorem countUp_cause (s : State C) : (countUp s).cause = s.cause := rfl
@[simp] theorem countUp_draws (s : State C) : (countUp s).draws = s.draws := rfl

@[simp] theorem recordFrame_pstate (n : Count C) (s : State C) : (recordFrame n s).pstate = s.pstate := rfl
@[simp] theorem recordFrame_pkind (n : Count C) (s : State C) : (recordFrame n s).pkind = s.pkind := rfl
@[simp] theorem recordFrame_rcount (n : Count C) (s : State C) : (recordFrame n s).rcount = s.rcount := rfl
@[simp] theorem recordFrame_buf (n : Count C) (s : State C) : (recordFrame n s).buf = s.buf := rfl
@[simp] theorem recordFrame_flen (n : Count C) (s : State C) : (recordFrame n s).flen = n := rfl
@[simp] theorem recordFrame_fvalid (n : Count C) (s : State C) : (recordFrame n s).fvalid = true := rfl
@[simp] theorem recordFrame_ev (n : Count C) (s : State C) : (recordFrame n s).ev = s.ev := rfl
@[simp] theorem recordFrame_dres (n : Count C) (s : State C) : (recordFrame n s).dres = s.dres := rfl
@[simp] theorem recordFrame_dok (n : Count C) (s : State C) : (recordFrame n s).dok = s.dok := rfl
@[simp] theorem recordFrame_inputs (n : Count C) (s : State C) : (recordFrame n s).inputs = s.inputs := rfl
@[simp] theorem recordFrame_cause (n : Count C) (s : State C) : (recordFrame n s).cause = s.cause := rfl
@[simp] theorem recordFrame_draws (n : Count C) (s : State C) : (recordFrame n s).draws = s.draws := rfl

@[simp] theorem present_pstate (p : PortWord) (s : State C) : (present p s).pstate = s.pstate := rfl
@[simp] theorem present_pkind (p : PortWord) (s : State C) : (present p s).pkind = s.pkind := rfl
@[simp] theorem present_rcount (p : PortWord) (s : State C) : (present p s).rcount = s.rcount := rfl
@[simp] theorem present_buf (p : PortWord) (s : State C) : (present p s).buf = s.buf := rfl
@[simp] theorem present_flen (p : PortWord) (s : State C) : (present p s).flen = s.flen := rfl
@[simp] theorem present_fvalid (p : PortWord) (s : State C) : (present p s).fvalid = s.fvalid := rfl
@[simp] theorem present_ev (p : PortWord) (s : State C) : (present p s).ev = s.ev := rfl
@[simp] theorem present_dres (p : PortWord) (s : State C) : (present p s).dres = s.dres := rfl
@[simp] theorem present_dok (p : PortWord) (s : State C) : (present p s).dok = s.dok := rfl
@[simp] theorem present_inputs (p : PortWord) (s : State C) : (present p s).inputs = .word p :: s.inputs := rfl
@[simp] theorem present_cause (p : PortWord) (s : State C) : (present p s).cause = s.cause := rfl
@[simp] theorem present_draws (p : PortWord) (s : State C) : (present p s).draws = s.draws := rfl

@[simp] theorem resetStep_pstate (s : State C) : (resetStep s).pstate = .idle := rfl
@[simp] theorem resetStep_pkind (s : State C) : (resetStep s).pkind = if Config.resetKindBit s.draws then .cc else .pc := rfl
@[simp] theorem resetStep_rcount (s : State C) : (resetStep s).rcount = 0 := rfl
@[simp] theorem resetStep_buf (s : State C) : (resetStep s).buf = [] := rfl
@[simp] theorem resetStep_flen (s : State C) : (resetStep s).flen = 0 := rfl
@[simp] theorem resetStep_fvalid (s : State C) : (resetStep s).fvalid = false := rfl
@[simp] theorem resetStep_ev (s : State C) : (resetStep s).ev = Event.empty := rfl
@[simp] theorem resetStep_dres (s : State C) : (resetStep s).dres = 0 := rfl
@[simp] theorem resetStep_dok (s : State C) : (resetStep s).dok = false := rfl
@[simp] theorem resetStep_inputs (s : State C) : (resetStep s).inputs = s.inputs := rfl
@[simp] theorem resetStep_cause (s : State C) : (resetStep s).cause = none := rfl
@[simp] theorem resetStep_draws (s : State C) : (resetStep s).draws = s.draws + 1 := rfl

@[simp] theorem Event.empty_kind : (Event.empty : Event C).kind = .none := rfl

end Sys2Proof.Machine
end

