-- ==== Sys2Proof/Laws/Ops.lean ====
section
/-! SUPPORT. For each shared operation one lemma that says all it can do, to be cited instead of unfolding it. -/

namespace Sys2Proof.Machine

variable {C : Capacity}

/-! ### The framer's store -/

theorem storeAtCount_of_lt {b : Byte} {s : State C} {k : State C → Result C} (h : s.rcount.toNat < C.bytes) :
    storeAtCount b s k = k { s with buf := s.buf.write s.rcount.toNat b } := if_pos h

theorem storeAtCount_of_ge {b : Byte} {s : State C} {k : State C → Result C} (h : C.bytes ≤ s.rcount.toNat) :
    storeAtCount b s k = .fault .bufOffset := if_neg (Nat.not_lt.2 h)

/-- If a store answers a next state, RCOUNT was below CAP and the continuation gave that state. -/
theorem storeAtCount_next {b : Byte} {s t : State C} {k : State C → Result C} (h : storeAtCount b s k = .next t) :
    s.rcount.toNat < C.bytes ∧ k { s with buf := s.buf.write s.rcount.toNat b } = .next t := by
  by_cases hc : s.rcount.toNat < C.bytes
  · exact ⟨hc, by rwa [storeAtCount_of_lt hc] at h⟩
  · rw [storeAtCount_of_ge (Nat.not_lt.1 hc)] at h
    cases h

/-- W bits hold the value CAP (R6). -/
theorem bytes_lt_two_pow_width (C : Capacity) : C.bytes < 2 ^ C.width := Nat.lt_log2_self

/-- W is the least width that holds the value CAP (R6). -/
theorem width_le_of_bytes_lt {C : Capacity} {w : Nat} (h : C.bytes < 2 ^ w) : C.width ≤ w :=
  (Nat.log2_lt (by have := C.atLeast3; omega)).2 h

/-- A count of at most CAP fits a count register. -/
theorem count_ofNat {n : Nat} (h : n ≤ C.bytes) : (BitVec.ofNat _ n : Count C).toNat = n :=
  Nat.mod_eq_of_lt (Nat.lt_of_le_of_lt h (bytes_lt_two_pow_width C))

theorem count_one : (1 : Count C).toNat = 1 := count_ofNat (n := 1) (by have := C.atLeast3; omega)

theorem count_two : (2 : Count C).toNat = 2 := count_ofNat (n := 2) (by have := C.atLeast3; omega)

/-- The two spellings of CAP of the block that `step` runs, as a number (R5). -/
theorem cap_eq : Config.cap = 256 ∧ Config.capacity.bytes = 256 := ⟨rfl, rfl⟩

/-- W of the block that `step` runs, as a number (R6). -/
theorem width_eq : Config.capacity.width = 9 := rfl

/-- RCOUNT + 1 does not wrap below CAP. -/
theorem count_succ {n : Count C} (h : n.toNat < C.bytes) : (n + 1).toNat = n.toNat + 1 := by
  have hb := bytes_lt_two_pow_width C
  rw [BitVec.toNat_add, count_one, Nat.mod_eq_of_lt (by omega)]

/-! ### The decoder's reads and answer -/

/-- A written byte of BUF is what `bufAt` reads. -/
theorem bufAt_of_read {s : State C} {i : Nat} {v : Byte} (h : s.buf.read i = some v) : bufAt s i = v := by
  simp [bufAt, h]

theorem byteAt_of_lt {s : State C} {k i : Nat} (hv : s.fvalid = true) (h : i < s.flen.toNat) : byteAt s k i = bufAt s i :=
  if_pos ⟨hv, h⟩

theorem byteAt_of_ge {s : State C} {k i : Nat} (h : s.flen.toNat ≤ i) : byteAt s k i = Config.draw8 s.draws k :=
  if_neg fun h' => Nat.not_lt.2 h h'.2

theorem byteAt_of_closed {s : State C} {k i : Nat} (h : s.fvalid = false) : byteAt s k i = Config.draw8 s.draws k :=
  if_neg fun h' => by simp [h] at h'

/-- A decoder step always completes; it writes D.res, D.ok and the draw counter, and emits nothing. -/
theorem decoderStep_eq (s : State C) (r : Answer) :
    decoderStep s r = .next { noEvent s with
      dres := (if s.fvalid then r else drawAnswer s).1
      dok := (if s.fvalid then r else drawAnswer s).2
      draws := s.draws + 1 } := rfl

theorem decoderStep_open {s : State C} {r : Answer} (h : s.fvalid = true) :
    ∃ t, decoderStep s r = .next t ∧ t.dres = r.1 ∧ t.dok = r.2 ∧ decoderKeeps s t :=
  ⟨_, rfl, by simp [h], by simp [h], rfl, rfl, rfl, fun _ => rfl, rfl, rfl, rfl, rfl⟩

theorem decoderStep_closed {s : State C} {r : Answer} (h : s.fvalid = false) :
    ∃ t, decoderStep s r = .next t ∧ t.dres = Config.draw32 s.draws ∧ t.dok = Config.draw1 s.draws ∧ decoderKeeps s t :=
  ⟨_, rfl, by simp [h, drawAnswer], by simp [h, drawAnswer], rfl, rfl, rfl, fun _ => rfl, rfl, rfl, rfl, rfl⟩

theorem decoderStep_keeps {s t : State C} {r : Answer} (h : decoderStep s r = .next t) :
    decoderKeeps s t ∧ t.ev = Event.empty := by
  cases h
  exact ⟨⟨rfl, rfl, rfl, fun _ => rfl, rfl, rfl, rfl, rfl⟩, rfl⟩

/-- What a decoder operation's rule computes inside the window, before R140's prologue looks at FVALID. -/
def decoderAnswer (s : State C) : Instr → Answer
  | .getb a => ((byteAt s 0 a.toNat).setWidth 32, true)
  | .get7 a => ((f7At s a.toNat).setWidth 32, true)
  | .get14 a => ((f14At s a.toNat).setWidth 32, true)
  | .get31 a => (f31At s a.toNat, true)
  | .mfreq b => ((mfrOf s).setWidth 32, decide (mfrOf s = b))
  | .xorck =>
    if 2 ≤ s.flen.toNat then
      ((computedChecksum s).setWidth 32, decide (computedChecksum s = bufAt s (s.flen.toNat - 2)))
    else drawAnswer s
  | .blkcnt => if hasBlockHeader s then (BitVec.ofNat 32 (blockCount s), true) else drawAnswer s
  | .blkoff a =>
    if hasBlockHeader s then
      if a.toNat < blockCount s then (BitVec.ofNat 32 (6 + 5 * a.toNat), true) else notFound
    else drawAnswer s
  | .multi14 a =>
    if fieldFits s (multi14Offset a.toNat) 2 then
      ((field14 (bufAt s (multi14Offset a.toNat)) (bufAt s (multi14Offset a.toNat + 1))).setWidth 32, true)
    else notFound
  | .multi31 a =>
    if fieldFits s (multi31Offset a.toNat) 5 then
      (field31 (bufAt s (multi31Offset a.toNat)) (bufAt s (multi31Offset a.toNat + 1))
        (bufAt s (multi31Offset a.toNat + 2)) (bufAt s (multi31Offset a.toNat + 3))
        (bufAt s (multi31Offset a.toNat + 4)), true)
    else notFound
  | .strlen a b => stringAnswer Config.strRoom a.toNat b.toNat s
  | .getlen => (s.flen.setWidth 32, true)
  | .idleData _ | .idlePc _ | .idleCc _ | .idleSox | .idleAs | .idleUnk _ | .colData _ | .colStatus _
  | .sxOverflow _ | .sxData _ | .sxEox | .sxStatus _ => notFound

/-- Every decoder operation is one decoder step on its rule's answer. -/
theorem execAt_decoder {i : Instr} (s : State C) (h : i.isDecoder = true) :
    execAt i s = decoderStep s (decoderAnswer s i) := by
  cases i <;> first | rfl | simp [Instr.isDecoder] at h

theorem exec_decoder {i : Instr} (s : State) (h : i.isDecoder = true) : exec i s = decoderStep s (decoderAnswer s i) :=
  execAt_decoder s h

/-- An operation inside the window answers what its rule computes. -/
theorem answers_of_open {i : Instr} {s : State} (h : i.isDecoder = true) (hv : s.fvalid = true) :
    Answers i s (decoderAnswer s i).1 (decoderAnswer s i).2 := by
  simpa only [Answers, exec_decoder s h] using decoderStep_open hv

/-- An answer is unique. -/
theorem answers_unique {i : Instr} {s : State} {r r' : BitVec 32} {o o' : Bool} (h : Answers i s r o)
    (h' : Answers i s r' o') : r = r' ∧ o = o' := by
  obtain ⟨t, ht, hr, ho, -⟩ := h
  obtain ⟨t', ht', hr', ho', -⟩ := h'
  rw [ht] at ht'
  cases ht'
  exact ⟨hr.symm.trans hr', ho.symm.trans ho'⟩

/-! ### The checksum and the string scan -/

/-- The running XOR of R147 as a fold over the offsets. -/
theorem xorBelow_eq_foldl (s : State C) (n : Nat) :
    xorBelow s n = (List.range n).foldl (fun x i => x ^^^ bufAt s i) 0 := by
  induction n with
  | zero => rfl
  | succ n ih => rw [List.range_succ, List.foldl_append, ← ih]; rfl

/-- All the scan of R161 can do: it counts at most its room, only bytes that are not `0x00`, and stops at the room's end
or at a `0x00`. -/
theorem scanString_spec (s : State C) (o room : Nat) :
    scanString s o room ≤ room ∧ (∀ j, j < scanString s o room → bufAt s (o + j) ≠ 0x00) ∧
    (scanString s o room = room ∨ bufAt s (o + scanString s o room) = 0x00) := by
  induction room generalizing o with
  | zero => simp [scanString]
  | succ room ih =>
    simp only [scanString]
    split
    · rename_i h
      simpa using h
    · rename_i h
      obtain ⟨h1, h2, h3⟩ := ih (o + 1)
      refine ⟨by omega, fun j hj => ?_, ?_⟩
      · cases j with
        | zero => simpa using h
        | succ j => simpa [Nat.add_assoc, Nat.add_comm 1 j] using h2 j (by omega)
      · rcases h3 with h3 | h3
        · exact .inl (by omega)
        · exact .inr (by simpa [Nat.add_assoc, Nat.add_comm 1] using h3)

/-- The scan depends only on the bytes it may read. -/
theorem scanString_congr {s s' : State C} {o room : Nat} (h : ∀ j, j < room → bufAt s' (o + j) = bufAt s (o + j)) :
    scanString s' o room = scanString s o room := by
  induction room generalizing o with
  | zero => rfl
  | succ room ih =>
    have h0 := h 0 (by omega)
    have := ih (o := o + 1) fun j hj => by
      simpa [Nat.add_assoc, Nat.add_comm 1 j] using h (j + 1) (by omega)
    simp only [Nat.add_zero] at h0
    simp only [scanString, h0, this]

theorem xorBelow_congr {s s' : State C} {n : Nat} (h : ∀ j, j < n → bufAt s' j = bufAt s j) :
    xorBelow s' n = xorBelow s n := by
  induction n with
  | zero => rfl
  | succ n ih => rw [xorBelow, xorBelow, ih fun j hj => h j (by omega), h n (by omega)]

/-! ### What a decoder result depends on -/

/-- A decoder result depends on FLEN, on the bytes inside the frame, on the guarded reads it makes, and, where its rule
gives draws, on the draws. -/
theorem decoderAnswer_congr {i : Instr} {s s' : State C} (hl : s'.flen = s.flen)
    (hat : ∀ k, k < s.flen.toNat → bufAt s' k = bufAt s k)
    (hby : ∀ j k, (guardedReads i).1 ≤ k → k < (guardedReads i).1 + (guardedReads i).2 → byteAt s' j k = byteAt s j k)
    (hdr : drawAnswer s' = drawAnswer s ∨ 2 ≤ s.flen.toNat ∧ (i = .blkcnt ∨ (∃ a, i = .blkoff a) → 6 ≤ s.flen.toNat)) :
    decoderAnswer s' i = decoderAnswer s i := by
  have hhead : hasBlockHeader s' = hasBlockHeader s := by rw [hasBlockHeader, hasBlockHeader, hl]
  have hcount : blockCount s' = blockCount s := by rw [blockCount, blockCount, hl]
  have hfit (o w : Nat) : fieldFits s' o w = fieldFits s o w := by rw [fieldFits, fieldFits, hl]
  have hterm (o : Nat) : terminatorAt s' o = terminatorAt s o := by
    rw [terminatorAt, terminatorAt, hl]
    by_cases h : o + 1 < s.flen.toNat
    · rw [hat o (by omega)]
    · simp [h]
  cases i <;> simp only [guardedReads] at hby
  case getb a => simp only [decoderAnswer, hby 0 a.toNat (by omega) (by omega)]
  case get7 a => simp only [decoderAnswer, f7At, hby 0 a.toNat (by omega) (by omega)]
  case get14 a =>
    simp only [decoderAnswer, f14At, hby 0 a.toNat (by omega) (by omega), hby 1 (a.toNat + 1) (by omega) (by omega)]
  case get31 a =>
    simp only [decoderAnswer, f31At, hby 0 a.toNat (by omega) (by omega), hby 1 (a.toNat + 1) (by omega) (by omega),
      hby 2 (a.toNat + 2) (by omega) (by omega), hby 3 (a.toNat + 3) (by omega) (by omega),
      hby 4 (a.toNat + 4) (by omega) (by omega)]
  case mfreq b =>
    have : mfrOf s' = mfrOf s := by
      simp only [mfrOf, hby 0 1 (by omega) (by omega), hby 1 2 (by omega) (by omega), hby 2 3 (by omega) (by omega)]
    rw [decoderAnswer, decoderAnswer, this]
  case xorck =>
    rw [decoderAnswer, decoderAnswer, hl]
    split
    · have : computedChecksum s' = computedChecksum s := by
        rw [computedChecksum, computedChecksum, hl, xorBelow_congr fun j hj => hat j (by omega)]
      rw [this, hat _ (by omega)]
    · exact hdr.resolve_right fun h => absurd h.1 ‹_›
  case blkcnt =>
    rw [decoderAnswer, decoderAnswer, hhead, hcount]
    split
    · rfl
    · exact hdr.resolve_right fun h => by simp_all [hasBlockHeader]
  case blkoff a =>
    rw [decoderAnswer, decoderAnswer, hhead, hcount]
    split
    · rfl
    · exact hdr.resolve_right fun h => by simp_all [hasBlockHeader]
  case multi14 a =>
    rw [decoderAnswer, decoderAnswer, hfit]
    split
    · rename_i h
      replace h : multi14Offset a.toNat + 2 ≤ s.flen.toNat := by simpa [fieldFits] using h
      rw [hat _ (by omega), hat _ (by omega)]
    · rfl
  case multi31 a =>
    rw [decoderAnswer, decoderAnswer, hfit]
    split
    · rename_i h
      replace h : multi31Offset a.toNat + 5 ≤ s.flen.toNat := by simpa [fieldFits] using h
      rw [hat _ (by omega), hat _ (by omega), hat _ (by omega), hat _ (by omega), hat _ (by omega)]
    · rfl
  case strlen a b =>
    have : stringCount Config.strRoom a.toNat b.toNat s' = stringCount Config.strRoom a.toNat b.toNat s := by
      rw [stringCount, stringCount, hl]
      exact scanString_congr fun j hj => hat _ (by omega)
    simp only [decoderAnswer, stringAnswer, this, hterm]
  case getlen => rw [decoderAnswer, decoderAnswer, hl]
  all_goals rfl

end Sys2Proof.Machine
end

