-- ==== Sys2Proof/Laws/Step.lean ====
section
/-! SUPPORT. What a step can do, said once: by the host's next input, and by the framer's context. -/

namespace Sys2Proof.Machine

variable {C : Capacity}

/-- `exec` is the parameterised dispatch at CAP = 256, so every law of `execAt` is one of `exec`. -/
theorem exec_eq_execAt (i : Instr) (s : State) : exec i s = execAt i s := rfl

/-- `step` is the parameterised step at CAP = 256, so every law of `stepAt` is one of `step`. -/
theorem step_eq_stepAt (s : State) : step s = stepAt s := rfl

theorem stepAt_of_idle {s : State C} (h : s.inputs = []) : stepAt s = .next (noEvent s) := by
  simp [stepAt, runSchedule, h]

theorem stepAt_of_reset {s : State C} {rest : List HostInput} (h : s.inputs = .reset :: rest) :
    stepAt s = .next (resetStep { s with inputs := rest }) := by
  simp [stepAt, runSchedule, runInput, h]

theorem stepAt_of_word {s : State C} {p : PortWord} {rest : List HostInput} (h : s.inputs = .word p :: rest) :
    stepAt s = runWord execAt p { s with inputs := rest } := by
  simp [stepAt, runSchedule, runInput, h]

/-- The framer's context does not depend on the host's schedule. -/
theorem rxContext_inputs (s : State C) (l : List HostInput) : rxContext { s with inputs := l } = rxContext s := rfl

theorem stepAt_of_rx {s : State C} {b : Byte} {rest : List HostInput} (h : s.inputs = .word (.rxByte b) :: rest) :
    stepAt s = execAt (decodeRx (rxContext s) b) { s with inputs := rest } := by
  rw [stepAt_of_word h]; rfl

theorem runWord_of_ok {s : State C} {p : PortWord} {i : Instr} (h : decode (rxContext s) p = .ok i) :
    runWord execAt p s = execAt i s := by
  simp [runWord, h]

theorem runWord_of_error {s : State C} {p : PortWord} {e : DecodeError} (h : decode (rxContext s) p = .error e) :
    runWord execAt p s = .refused (refusalOf e) := by
  simp [runWord, h]

theorem rxContext_idle {s : State C} (h : s.pstate = .idle) : rxContext s = .idle := by simp [rxContext, h]

theorem rxContext_collect {s : State C} (h : s.pstate = .collect) : rxContext s = .collect := by simp [rxContext, h]

theorem rxContext_full {s : State C} (h : s.pstate = .collectSysex) (hc : s.rcount.toNat = C.bytes) :
    rxContext s = .sysexFull := by
  simp [rxContext, h, countFull, hc]

theorem rxContext_sysex {s : State C} (h : s.pstate = .collectSysex) (hc : s.rcount.toNat ≠ C.bytes) :
    rxContext s = .sysex := by
  simp [rxContext, h, countFull, hc]

/-- A received byte is a data byte exactly when its bit 7 is clear, as a number below 0x80. -/
theorem isStatus_eq_false_iff (b : Byte) : isStatus b = false ↔ b.toNat < 0x80 := by
  revert b; decide

/-- All a decoded command can be: a decoder operation, or an error for a reserved word (R94). -/
theorem decodeCmd_cases (w : CmdWord) :
    (∃ i, decodeCmd w = .ok i ∧ i.isDecoder = true ∧ ¬ isReserved w) ∨
    (∃ e, decodeCmd w = .error e ∧ isReserved w) := by
  unfold decodeCmd
  split
  · rename_i h0
    have hlt := (cmdOp w).isLt
    have hr : isReserved w ↔ (cmdOp w).toNat = 0 ∨ 13 ≤ (cmdOp w).toNat := by
      simp only [isReserved, h0]
      simp only [BitVec.ofNat_eq_ofNat, ne_eq, not_true_eq_false, or_false]
      omega
    rw [hr]
    unfold decodeOp
    split
    case h_13 => exact .inr ⟨_, rfl, by simp only [imp_false] at *; omega⟩
    all_goals exact .inl ⟨_, rfl, rfl, by omega⟩
  · rename_i h0
    exact .inr ⟨_, rfl, by simp [isReserved, h0]⟩

/-- All a step can do (R231): nothing; a reset; the framer rule that a byte selects; a decoder operation; a refusal. -/
theorem stepAt_cases (s : State C) :
    (s.inputs = [] ∧ stepAt s = .next (noEvent s)) ∨
    (∃ rest, s.inputs = .reset :: rest ∧ stepAt s = .next (resetStep { s with inputs := rest })) ∨
    (∃ b rest, s.inputs = .word (.rxByte b) :: rest ∧
      stepAt s = execAt (decodeRx (rxContext s) b) { s with inputs := rest }) ∨
    (∃ w rest i, s.inputs = .word (.dcmd w) :: rest ∧ i.isDecoder = true ∧ ¬ isReserved w ∧
      stepAt s = execAt i { s with inputs := rest }) ∨
    (∃ w rest r, s.inputs = .word (.dcmd w) :: rest ∧ isReserved w ∧ stepAt s = .refused r) := by
  match h : s.inputs with
  | [] => exact .inl ⟨rfl, stepAt_of_idle h⟩
  | .reset :: rest => exact .inr (.inl ⟨rest, rfl, stepAt_of_reset h⟩)
  | .word (.rxByte b) :: rest => exact .inr (.inr (.inl ⟨b, rest, rfl, stepAt_of_rx h⟩))
  | .word (.dcmd w) :: rest =>
    rcases decodeCmd_cases w with ⟨i, hi, hd, hr⟩ | ⟨e, he, hr⟩
    · exact .inr (.inr (.inr (.inl ⟨w, rest, i, rfl, hd, hr, (stepAt_of_word h).trans (runWord_of_ok hi)⟩)))
    · exact .inr (.inr (.inr (.inr ⟨w, rest, _, rfl, hr, (stepAt_of_word h).trans (runWord_of_error he)⟩)))

end Sys2Proof.Machine
end

