-- ==== Sys2Proof/Laws/Framer.lean ====
section
/-! SUPPORT. All a framer step can do, said once: the twelve rules R101 to R112, each with the condition that selects it
and the state it gives. -/

namespace Sys2Proof.Machine

variable {C : Capacity}

/-- `BUF[RCOUNT] <- b ; RCOUNT <- RCOUNT + 1` after the prologue: the state in which COL.DATA and SX.DATA go on. -/
def appended (b : Byte) (s : State C) : State C :=
  countUp { prologue s with buf := s.buf.write s.rcount.toNat b }

/-- The state that SX.EOX gives (R111). -/
def frameCompleted (s : State C) : State C :=
  toIdle (emit { (Event.empty : Event C) with kind := .sysex, len := s.rcount + 1 }
    (recordFrame (s.rcount + 1) { prologue s with buf := s.buf.write s.rcount.toNat 0xF7#8 }))

/-- `FramerStep s b t`: from `s` the framer consumes `b` and gives `t`, by exactly one of the rules R101 to R112. -/
inductive FramerStep (s : State C) (b : Byte) : State C → Prop where
  | idleData : s.pstate = .idle → isStatus b = false → FramerStep s b (drop .dropData (prologue s))
  | idlePc : s.pstate = .idle → typeField b = 0xC#4 →
      FramerStep s b (openMessage .collect b { prologue s with pkind := .pc })
  | idleCc : s.pstate = .idle → typeField b = 0xB#4 →
      FramerStep s b (openMessage .collect b { prologue s with pkind := .cc })
  | idleSox : s.pstate = .idle → b = 0xF0#8 → FramerStep s b (openMessage .collectSysex b (prologue s))
  | idleAs : s.pstate = .idle → b = 0xFE#8 → FramerStep s b (emit { Event.empty with kind := .as } (prologue s))
  | idleUnk : s.pstate = .idle → isUnknownStatus b = true → FramerStep s b (drop .dropUnknown (prologue s))
  | colData : s.pstate = .collect → isStatus b = false → s.rcount.toNat < C.bytes →
      messageComplete (appended b s) = false → FramerStep s b (appended b s)
  | colComplete : s.pstate = .collect → isStatus b = false → s.rcount.toNat < C.bytes →
      messageComplete (appended b s) = true →
      FramerStep s b (toIdle (emit (messageEvent (appended b s)) (appended b s)))
  | colStatus : s.pstate = .collect → isStatus b = true → FramerStep s b (abort .statusInMsg (prologue s))
  | sxOverflow : s.pstate = .collectSysex → s.rcount.toNat = C.bytes → FramerStep s b (abort .overflow (prologue s))
  | sxData : s.pstate = .collectSysex → s.rcount.toNat < C.bytes → isStatus b = false → FramerStep s b (appended b s)
  | sxEox : s.pstate = .collectSysex → s.rcount.toNat < C.bytes → b = 0xF7#8 → FramerStep s b (frameCompleted s)
  | sxStatus : s.pstate = .collectSysex → s.rcount.toNat ≠ C.bytes → isAbortingStatus b = true →
      FramerStep s b (abort .statusInSysex (prologue s))

theorem data_byte_eq : ∀ b : Byte, isStatus b = false → (0#1 ++ dataField b : BitVec 8) = b := by decide

theorem pc_byte_eq : ∀ b : Byte, typeField b = 0xC#4 → (0xC#4 ++ channelField b : BitVec 8) = b := by decide

theorem cc_byte_eq : ∀ b : Byte, typeField b = 0xB#4 → (0xB#4 ++ channelField b : BitVec 8) = b := by decide

/-- What R100's dispatch leaves for IDLE.UNK is the class UNK of R72. -/
theorem unknown_of_dispatch : ∀ b : Byte, ¬isStatus b = false → ¬typeField b = 0xC#4 → ¬typeField b = 0xB#4 →
    ¬b = 0xF0#8 → ¬b = 0xFE#8 → isUnknownStatus b = true := by decide

/-- The inversion of the framer: a next state comes from one of the twelve rules. -/
theorem framerStep_of_exec {s t : State C} {b : Byte} (h : execAt (decodeRx (rxContext s) b) s = .next t) :
    FramerStep s b t := by
  have hp : s.pstate = .idle ∨ s.pstate = .collect ∨ s.pstate = .collectSysex := by cases s.pstate <;> simp
  rcases hp with hp | hp | hp
  · rw [rxContext_idle hp] at h
    simp only [decodeRx] at h
    split_ifs at h with h1 h2 h3 h4 h5
    · cases h; exact .idleData hp h1
    · cases h; rw [pc_byte_eq b h2]; exact .idlePc hp h2
    · cases h; rw [cc_byte_eq b h3]; exact .idleCc hp h3
    · cases h; subst h4; exact .idleSox hp rfl
    · cases h; exact .idleAs hp h5
    · cases h; exact .idleUnk hp (unknown_of_dispatch b h1 h2 h3 h4 h5)
  · rw [rxContext_collect hp] at h
    simp only [decodeRx] at h
    split_ifs at h with h1
    · simp only [execAt, execColData, data_byte_eq b h1] at h
      obtain ⟨hc, h⟩ := storeAtCount_next h
      change (if messageComplete (appended b s) then
        Host.Outcome.next (toIdle (emit (messageEvent (appended b s)) (appended b s)))
        else .next (appended b s)) = .next t at h
      split at h <;> rename_i hm <;> cases h
      · exact .colComplete hp h1 hc hm
      · exact .colData hp h1 hc (by simpa using hm)
    · cases h; exact .colStatus hp (by simpa using h1)
  · by_cases hc : s.rcount.toNat = C.bytes
    · rw [rxContext_full hp hc] at h
      cases h; exact .sxOverflow hp hc
    · rw [rxContext_sysex hp hc] at h
      simp only [decodeRx] at h
      split_ifs at h with h1 h2
      · simp only [execAt, execSxEox] at h
        obtain ⟨hc, h⟩ := storeAtCount_next h
        cases h; exact .sxEox hp hc h1
      · cases h; exact .sxStatus hp hc (by simp [isAbortingStatus, h1, h2])
      · have h2 : isStatus b = false := by simpa using h2
        simp only [execAt, execSxData, data_byte_eq b h2] at h
        obtain ⟨hc, h⟩ := storeAtCount_next h
        cases h; exact .sxData hp hc h2

/-- The converse: each rule, where its condition holds, is what executing the byte does. -/
theorem execAt_of_framerStep {s t : State C} {b : Byte} (h : FramerStep s b t) :
    execAt (decodeRx (rxContext s) b) s = .next t := by
  have pc : ∀ b, typeField b = 0xC#4 → decodeRx .idle b = .idlePc (channelField b) := by decide
  have cc : ∀ b, typeField b = 0xB#4 → decodeRx .idle b = .idleCc (channelField b) := by decide
  have unk : ∀ b, isUnknownStatus b = true → decodeRx .idle b = .idleUnk b := by decide
  have sta : ∀ b, isAbortingStatus b = true → decodeRx .sysex b = .sxStatus b := by decide
  have dat : ∀ b, isStatus b = false → decodeRx .sysex b = .sxData (dataField b) := by decide
  cases h with
  | idleData hp hb => rw [rxContext_idle hp]; simp only [decodeRx, hb, if_true]; rfl
  | idlePc hp hb => rw [rxContext_idle hp, pc b hb, execAt, execIdlePc, pc_byte_eq b hb]
  | idleCc hp hb => rw [rxContext_idle hp, cc b hb, execAt, execIdleCc, cc_byte_eq b hb]
  | idleSox hp hb => subst hb; rw [rxContext_idle hp]; rfl
  | idleAs hp hb => subst hb; rw [rxContext_idle hp]; rfl
  | idleUnk hp hb => rw [rxContext_idle hp, unk b hb]; rfl
  | colData hp hb hc hm =>
    rw [rxContext_collect hp]
    simp only [decodeRx, hb, if_true, execAt, execColData, data_byte_eq b hb]
    rw [storeAtCount_of_lt (by exact hc)]
    exact if_neg fun h => Bool.noConfusion (hm.symm.trans h)
  | colComplete hp hb hc hm =>
    rw [rxContext_collect hp]
    simp only [decodeRx, hb, if_true, execAt, execColData, data_byte_eq b hb]
    rw [storeAtCount_of_lt (by exact hc)]
    exact if_pos hm
  | colStatus hp hb => rw [rxContext_collect hp]; simp only [decodeRx, hb]; rfl
  | sxOverflow hp hc => rw [rxContext_full hp hc]; rfl
  | sxData hp hc hb =>
    rw [rxContext_sysex hp (by omega), dat b hb]
    simp only [execAt, execSxData, data_byte_eq b hb]
    exact storeAtCount_of_lt (s := prologue s) hc
  | sxEox hp hc hb =>
    subst hb
    rw [rxContext_sysex hp (by omega)]
    change execSxEox s = _
    rw [execSxEox]
    exact storeAtCount_of_lt (s := prologue s) hc
  | sxStatus hp hc hb => rw [rxContext_sysex hp hc, sta b hb]; rfl

/-- The inversion of a step on a received byte. -/
theorem framerStep_of_step {s t : State C} {b : Byte} {rest : List HostInput}
    (hi : s.inputs = .word (.rxByte b) :: rest) (h : stepAt s = .next t) : FramerStep { s with inputs := rest } b t := by
  rw [stepAt_of_rx hi] at h
  exact framerStep_of_exec h

/-- A step on a received byte, from the rule that the byte selects. -/
theorem stepAt_of_framerStep {s t : State C} {b : Byte} {rest : List HostInput}
    (hi : s.inputs = .word (.rxByte b) :: rest) (h : FramerStep { s with inputs := rest } b t) : stepAt s = .next t :=
  (stepAt_of_rx hi).trans (execAt_of_framerStep h)

/-- The first step of a stream that the host feeds. -/
theorem stepAt_of_feeds {s t : State C} {b : Byte} {bs : List Byte} {rest : List HostInput} (hf : feeds s (b :: bs) rest)
    (h : FramerStep { s with inputs := bs.map (fun b => .word (.rxByte b)) ++ rest } b t) : stepAt s = .next t :=
  stepAt_of_framerStep hf h

/-- The framer takes a next state from every state in which an open message leaves room in BUF, or is a full frame. -/
theorem framer_completes {s : State C} (b : Byte) (hc : s.pstate = .collect → s.rcount.toNat < C.bytes)
    (hx : s.pstate = .collectSysex → s.rcount.toNat ≤ C.bytes) :
    ∃ t, execAt (decodeRx (rxContext s) b) s = .next t := by
  have hstore (v : Byte) (k : State C → Result C) (hk : ∀ t, ∃ u, k t = .next u) (h : s.rcount.toNat < C.bytes) :
      ∃ u, storeAtCount v (prologue s) k = .next u := by
    rw [storeAtCount_of_lt (by exact h)]; exact hk _
  have hp : s.pstate = .idle ∨ s.pstate = .collect ∨ s.pstate = .collectSysex := by cases s.pstate <;> simp
  rcases hp with hp | hp | hp
  · rw [rxContext_idle hp]
    simp only [decodeRx]
    split_ifs <;> exact ⟨_, rfl⟩
  · rw [rxContext_collect hp]
    simp only [decodeRx]
    split_ifs
    · simp only [execAt, execColData]
      refine hstore _ _ (fun t => ?_) (hc hp)
      split <;> exact ⟨_, rfl⟩
    · exact ⟨_, rfl⟩
  · by_cases hf : s.rcount.toNat = C.bytes
    · rw [rxContext_full hp hf]; exact ⟨_, rfl⟩
    · have hlt : s.rcount.toNat < C.bytes := by have := hx hp; omega
      rw [rxContext_sysex hp hf]
      simp only [decodeRx]
      split_ifs
      · simp only [execAt, execSxEox]
        exact hstore _ _ (fun t => ⟨_, rfl⟩) hlt
      · exact ⟨_, rfl⟩
      · simp only [execAt, execSxData]
        exact hstore _ _ (fun t => ⟨_, rfl⟩) hlt

end Sys2Proof.Machine
end

