-- ==== Sys2Proof/Laws/Operands.lean ====
section
/-! SUPPORT. The field assemblies of Machine/Operands.lean in the words of spec/30_encoding.md: masks, shifts and ORs. -/

namespace Sys2Proof.Machine

/-- R80. -/
theorem low7_eq_mask (b : Byte) : (low7 b).setWidth 32 = (b &&& 0x7F).setWidth 32 := by
  revert b; decide

/-- R81. -/
theorem field14_eq_formula (x y : Byte) :
    (field14 x y).setWidth 32 = ((x &&& 0x7F).setWidth 32 <<< 7) ||| (y &&& 0x7F).setWidth 32 := by
  apply BitVec.eq_of_getLsbD_eq
  intro i hi
  simp only [field14, low7, BitVec.getLsbD_setWidth, BitVec.getLsbD_append, BitVec.getLsbD_or,
    BitVec.getLsbD_shiftLeft, BitVec.getLsbD_and, BitVec.getLsbD_extractLsb']
  interval_cases i <;> simp

/-- R82. -/
theorem field31_eq_formula (u v x y z : Byte) :
    field31 u v x y z = ((u &&& 0x0F).setWidth 32 <<< 28) ||| ((v &&& 0x7F).setWidth 32 <<< 21) |||
      ((x &&& 0x7F).setWidth 32 <<< 14) ||| ((y &&& 0x7F).setWidth 32 <<< 7) ||| (z &&& 0x7F).setWidth 32 := by
  apply BitVec.eq_of_getLsbD_eq
  intro i hi
  simp only [field31, low7, low4, BitVec.getLsbD_setWidth, BitVec.getLsbD_append, BitVec.getLsbD_or,
    BitVec.getLsbD_shiftLeft, BitVec.getLsbD_and, BitVec.getLsbD_extractLsb']
  interval_cases i <;> simp

/-- R84. -/
theorem field24_eq_formula (x y z : Byte) :
    field24 x y z = (x.setWidth 24 <<< 16) ||| (y.setWidth 24 <<< 8) ||| z.setWidth 24 := by
  apply BitVec.eq_of_getLsbD_eq
  intro i hi
  simp only [field24, BitVec.getLsbD_setWidth, BitVec.getLsbD_append, BitVec.getLsbD_or,
    BitVec.getLsbD_shiftLeft]
  interval_cases i <;> simp

end Sys2Proof.Machine
end

