-- ==== Sys2Proof/Laws/PerInstr.lean ====
section
/-! SUPPORT. The statements made once per constructor of Instr: the word that encodes it lies in one of the rows of
spec/opcode_table.json that bear its mnemonic. -/

namespace Sys2Proof.Laws.TableRow

/-- The word of a well-formed instruction matches a row of its mnemonic. -/
def Statement (i : Instr) : Prop := i.wellFormed = true → ∃ r ∈ i.tableRows, (encode i).bits &&& r.1 = r.2

/-- The low byte of a command word with `rsv` 0 is its `op`. -/
theorem cmd_low_byte (b : BitVec 24) (a : BitVec 16) (op : BitVec 4) : (makeCmd b a op).toNat &&& 0xFF = op.toNat := by
  rw [show 0xFF = 2 ^ 8 - 1 from rfl, Nat.and_two_pow_sub_one_eq_mod]
  simp only [makeCmd, BitVec.toNat_append, Nat.shiftLeft_eq, BitVec.toNat_ofNat, Nat.or_mod_two_pow]
  have := op.isLt
  rw [Nat.mod_eq_of_lt (by omega : op.toNat < 2 ^ 8)]
  simp [Nat.mul_assoc, Nat.mul_mod_left]

theorem idleData (d : BitVec 7) : Statement (.idleData d) := by unfold Statement; revert d; decide

theorem idlePc (ch : BitVec 4) : Statement (.idlePc ch) := by unfold Statement; revert ch; decide

theorem idleCc (ch : BitVec 4) : Statement (.idleCc ch) := by unfold Statement; revert ch; decide

theorem idleSox : Statement .idleSox := by unfold Statement; decide

theorem idleAs : Statement .idleAs := by unfold Statement; decide

theorem idleUnk (b : Byte) : Statement (.idleUnk b) := by unfold Statement; revert b; decide

theorem colData (d : BitVec 7) : Statement (.colData d) := by unfold Statement; revert d; decide

theorem colStatus (b : Byte) : Statement (.colStatus b) := by unfold Statement; revert b; decide

theorem sxOverflow (b : Byte) : Statement (.sxOverflow b) := fun _ => ⟨_, List.mem_cons_self, Nat.and_zero _⟩

theorem sxData (d : BitVec 7) : Statement (.sxData d) := by unfold Statement; revert d; decide

theorem sxEox : Statement .sxEox := by unfold Statement; decide

theorem sxStatus (b : Byte) : Statement (.sxStatus b) := by unfold Statement; revert b; decide

theorem getb (a : BitVec 16) : Statement (.getb a) := fun _ => ⟨_, List.mem_cons_self, cmd_low_byte _ _ _⟩

theorem get7 (a : BitVec 16) : Statement (.get7 a) := fun _ => ⟨_, List.mem_cons_self, cmd_low_byte _ _ _⟩

theorem get14 (a : BitVec 16) : Statement (.get14 a) := fun _ => ⟨_, List.mem_cons_self, cmd_low_byte _ _ _⟩

theorem get31 (a : BitVec 16) : Statement (.get31 a) := fun _ => ⟨_, List.mem_cons_self, cmd_low_byte _ _ _⟩

theorem mfreq (b : BitVec 24) : Statement (.mfreq b) := fun _ => ⟨_, List.mem_cons_self, cmd_low_byte _ _ _⟩

theorem xorck : Statement .xorck := fun _ => ⟨_, List.mem_cons_self, cmd_low_byte _ _ _⟩

theorem blkcnt : Statement .blkcnt := fun _ => ⟨_, List.mem_cons_self, cmd_low_byte _ _ _⟩

theorem blkoff (a : BitVec 16) : Statement (.blkoff a) := fun _ => ⟨_, List.mem_cons_self, cmd_low_byte _ _ _⟩

theorem multi14 (a : BitVec 16) : Statement (.multi14 a) := fun _ => ⟨_, List.mem_cons_self, cmd_low_byte _ _ _⟩

theorem multi31 (a : BitVec 16) : Statement (.multi31 a) := fun _ => ⟨_, List.mem_cons_self, cmd_low_byte _ _ _⟩

theorem strlen (a : BitVec 16) (b : BitVec 24) : Statement (.strlen a b) := fun _ => ⟨_, List.mem_cons_self, cmd_low_byte _ _ _⟩

theorem getlen : Statement .getlen := fun _ => ⟨_, List.mem_cons_self, cmd_low_byte _ _ _⟩

end Sys2Proof.Laws.TableRow
end

