-- ==== Sys2Proof/Tests/Slice0.lean ====
section
/-! SUPPORT. The model's own tests. Expected values come from spec/95_test_vectors.md; a vector's name there stands in the
comment. Then, for each statement with hypotheses, a witness that meets them. -/

namespace Sys2Proof.Machine

/-! ### Helpers -/

/-- A state that holds a completed frame in an open window. -/
def holding (bs : List Byte) : State :=
  { State.reset with
    buf := (List.range bs.length).zip bs
    flen := BitVec.ofNat _ bs.length
    fvalid := true }

/-- A state of the framer in the middle of a message. -/
def framing (p : PState) (k : PKind) (n : Nat) (bs : List Byte) : State :=
  { State.reset with
    pstate := p
    pkind := k
    rcount := BitVec.ofNat _ n
    buf := (List.range bs.length).zip bs }

/-- The host offers these bytes to a state. -/
def offered (s : State) (bs : List Byte) : State := { s with inputs := bs.map fun b => .word (.rxByte b) }

/-- The state a step gives, if it gives one. -/
def next? : Result → Option State
  | .next t => some t
  | _ => none

/-- D.res and D.ok after a decoder operation. -/
def resultOf (r : Result) : Option Answer := (next? r).map fun t => (t.dres, t.dok)

/-- The smallest block that R5 allows: CAP = 3, W = 2. -/
def smallest : Capacity := ⟨3, by decide⟩

/-- The smallest block with a SysEx frame of `n` bytes open, which the host offers a byte. -/
def collecting (n : Nat) (b : Byte) : State smallest :=
  { State.resetAt smallest with
    pstate := .collectSysex
    rcount := BitVec.ofNat _ n
    buf := [(0, 0xF0), (1, 0x01), (2, 0x02)]
    inputs := [.word (.rxByte b)] }

/-- What a framer step on one byte leaves in PSTATE, RCOUNT, FVALID and EV. -/
def fed (s : State) (b : Byte) : Option (PState × Count × Bool × Event) :=
  (next? (step (offered s [b]))).map fun t => (t.pstate, t.rcount, t.fvalid, t.ev)

def frameAX : List Byte := [0xF0, 0x00, 0x01, 0x74, 0x06, 0x0F, 0x41, 0x42, 0x00, 0x0F, 0xF7]
def frameBLK : List Byte :=
  [0xF0, 0x00, 0x01, 0x74, 0x03, 0x0E, 0x01, 0x02, 0x03, 0x04, 0x05, 0x10, 0x20, 0x30, 0x40, 0x50, 0x19, 0xF7]
def frameKM : List Byte :=
  [0xF0, 0x00, 0x20, 0x33, 0x02, 0x7F, 0x02, 0x00, 0x04, 0x05, 0x00, 0x01, 0x7F, 0x7F, 0x40, 0x00, 0xF7]
def frameKS : List Byte := [0xF0, 0x00, 0x20, 0x33, 0x02, 0x7F, 0x01, 0x00, 0x04, 0x05, 0x55, 0x3C, 0xF7]
def frameEXT : List Byte :=
  [0xF0, 0x00, 0x20, 0x33, 0x02, 0x7F, 0x03, 0x00, 0x00, 0x00, 0x00, 0x00, 0x01, 0x07, 0x7F, 0x7F, 0x7F, 0x7F, 0xF7]
def frameMIN : List Byte := [0xF0, 0xF7]
/-- X6's frame, the shortest of AxeFx. -/
def frameX6 : List Byte := [0xF0, 0x00, 0x01, 0x74, 0x06, 0x0F, 0x0C, 0xF7]

/-! ### WellFormed: an ill-formed term for each check -/

/-- `0xF7` is UNK in IDLE (R72), `0xFE` is not. -/
theorem test_wellFormed_idleUnk : (Instr.idleUnk 0xF7).wellFormed = true ∧ (Instr.idleUnk 0xFE).wellFormed = false := by
  decide

/-- A data byte is no status byte (R108). -/
theorem test_wellFormed_colStatus :
    (Instr.colStatus 0x80).wellFormed = true ∧ (Instr.colStatus 0x7F).wellFormed = false := by decide

/-- `0xF7` does not abort a SysEx frame (R112). -/
theorem test_wellFormed_sxStatus :
    (Instr.sxStatus 0xF6).wellFormed = true ∧ (Instr.sxStatus 0xF7).wellFormed = false ∧
    (Instr.sxStatus 0x7F).wellFormed = false := by decide

/-! ### Decoding: words written out from spec/30_encoding.md R71, R72, R92 and R93 -/

/-- IDLE (F2, F4, F6, F7, F8, F15): bit 7 clear; `0xC`, `0xB` in bits 7:4; whole bytes. -/
theorem test_decode_idle :
    decode .idle (.rxByte 0b01111111) = .ok (.idleData 0b1111111) ∧
    decode .idle (.rxByte 0b11001111) = .ok (.idlePc 0b1111) ∧
    decode .idle (.rxByte 0b10111110) = .ok (.idleCc 0b1110) ∧
    decode .idle (.rxByte 0b11110000) = .ok .idleSox ∧
    decode .idle (.rxByte 0b11111110) = .ok .idleAs ∧
    decode .idle (.rxByte 0b11110111) = .ok (.idleUnk 0xF7) := ⟨rfl, rfl, rfl, rfl, rfl, rfl⟩

/-- COLLECT (F20, F22). -/
theorem test_decode_collect :
    decode .collect (.rxByte 0b00000101) = .ok (.colData 0b0000101) ∧
    decode .collect (.rxByte 0b10000000) = .ok (.colStatus 0x80) := ⟨rfl, rfl⟩

/-- COLLECT_SYSEX with RCOUNT below CAP and at CAP (F27, F32, F37, F29). -/
theorem test_decode_sysex :
    decode .sysex (.rxByte 0b00000000) = .ok (.sxData 0) ∧ decode .sysex (.rxByte 0b11110111) = .ok .sxEox ∧
    decode .sysex (.rxByte 0b11110110) = .ok (.sxStatus 0xF6) ∧
    decode .sysexFull (.rxByte 0b11110111) = .ok (.sxOverflow 0xF7) := ⟨rfl, rfl, rfl, rfl⟩

/-- `{b, a, rsv, op}` (R92): the operations with an offset `a`. -/
theorem test_decode_fields :
    decode .idle (.dcmd (0x000000#24 ++ 0x000A#16 ++ 0#4 ++ 0x1#4)) = .ok (.getb 10) ∧
    decode .idle (.dcmd 0x000000000502) = .ok (.get7 5) ∧
    decode .idle (.dcmd 0x000000000803) = .ok (.get14 8) ∧
    decode .idle (.dcmd 0x000000000D04) = .ok (.get31 13) := ⟨rfl, rfl, rfl, rfl⟩

/-- The ID, the checksum and the length (E3, E8, E9, E11). -/
theorem test_decode_frame :
    decode .idle (.dcmd 0x002033000005) = .ok (.mfreq 0x002033) ∧ decode .idle (.dcmd 0x000000000006) = .ok .xorck ∧
    decode .idle (.dcmd 0x00000000000C) = .ok .getlen ∧ decode .idle (.dcmd 0xFFFFFFFFFF0C) = .ok .getlen :=
  ⟨rfl, rfl, rfl, rfl⟩

/-- The indexed operations and the string (E4 to E7). -/
theorem test_decode_indexed :
    decode .idle (.dcmd 0x000000000007) = .ok .blkcnt ∧ decode .idle (.dcmd 0x000000000108) = .ok (.blkoff 1) ∧
    decode .idle (.dcmd 0x000000000309) = .ok (.multi14 3) ∧ decode .idle (.dcmd 0x00000000000A) = .ok (.multi31 0) ∧
    decode .idle (.dcmd 0x00001000060B) = .ok (.strlen 6 16) := ⟨rfl, rfl, rfl, rfl, rfl⟩

/-- The reserved words E12 to E16. -/
theorem test_decode_reserved :
    decode .idle (.dcmd 0x000000000000) = .error (.reservedOp 0) ∧
    decode .idle (.dcmd 0x00000000000D) = .error (.reservedOp 0xD) ∧
    decode .idle (.dcmd 0x00000000000F) = .error (.reservedOp 0xF) ∧
    decode .idle (.dcmd 0x00000000001C) = .error (.reservedField 1) ∧
    decode .idle (.dcmd 0x0000000000F2) = .error (.reservedField 0xF) := ⟨rfl, rfl, rfl, rfl, rfl⟩

/-- The encoder on words of section 4 (E2, E4, E6). -/
theorem test_encode : encode (.mfreq 0x000174) = .dcmd 0x000174000005 ∧ encode (.strlen 6 16) = .dcmd 0x00001000060B ∧
    encode (.blkoff 1) = .dcmd 0x000000000108 := by decide

/-- Words as the opcode table numbers them: a byte, and a command given by its low byte or by all its 48 bits (log 13). -/
theorem test_decodeTableWord :
    decodeTableWord 8 0xC3 = some (.idlePc 3) ∧ decodeTableWord 8 0x0C = some .getlen ∧
    decodeTableWord 48 0x00001000060B = some (.strlen 6 16) ∧ decodeTableWord 48 0x00000000000D = none :=
  ⟨rfl, rfl, rfl, rfl⟩

/-- The first step after reset runs the word that withFetchWord presents. -/
theorem test_withFetchWord :
    step (State.reset.withFetchWord 8 0xF0) = exec .idleSox State.reset ∧
    step (State.reset.withFetchWord 48 0x0C) = exec .getlen State.reset := ⟨rfl, rfl⟩

/-- The codes of R23, R24 and R27. -/
theorem test_codes :
    [PState.idle, .collect, .collectSysex].map PState.code = [0, 1, 2] ∧ [PKind.pc, .cc].map PKind.code = [0, 1] ∧
    [EvKind.none, .pc, .cc, .as, .sysex].map EvKind.code = [0, 1, 2, 3, 4] := by decide

/-! ### The framer (spec/95_test_vectors.md section 2) -/

/-- F2, and F39: any byte closes the window. -/
theorem test_idleData : fed (holding frameMIN) 0x7F = some (.idle, 0, false, Event.empty) := by decide

/-- F4. -/
theorem test_idlePc : (next? (step (offered State.reset [0xCF]))).map
    (fun t => (t.pstate, t.pkind, t.rcount, t.buf, t.ev.kind)) = some (.collect, .pc, 1, [(0, 0xCF)], .none) := rfl

/-- F5. -/
theorem test_idleCc : (next? (step (offered State.reset [0xB0]))).map
    (fun t => (t.pstate, t.pkind, t.rcount, t.buf, t.ev.kind)) = some (.collect, .cc, 1, [(0, 0xB0)], .none) := rfl

/-- F7. -/
theorem test_idleSox : fed State.reset 0xF0 = some (.collectSysex, 1, false, Event.empty) := by decide

/-- F40: the window closes and BUF is unchanged. -/
theorem test_idleAs : (next? (step (offered (holding frameMIN) [0xFE]))).map
    (fun t => (t.pstate, t.fvalid, t.ev, t.buf)) = some (.idle, false, ⟨.as, 0, 0, 0, 0⟩, [(0, 0xF0), (1, 0xF7)]) := by
  decide

/-- F15. -/
theorem test_idleUnk : fed State.reset 0xF7 = some (.idle, 0, false, Event.empty) := by decide

/-- F19: a PC completes on its first data byte. -/
theorem test_colData_pc : fed (framing .collect .pc 1 [0xC5]) 0x7F = some (.idle, 0, false, ⟨.pc, 5, 127, 0, 0⟩) := by
  decide

/-- F20 and F21: a CC completes on its second. -/
theorem test_colData_cc :
    fed (framing .collect .cc 1 [0xB3]) 0x00 = some (.collect, 2, false, Event.empty) ∧
    fed (framing .collect .cc 2 [0xB3, 0x07]) 0x64 = some (.idle, 0, false, ⟨.cc, 3, 7, 100, 0⟩) := by decide

/-- F26: an aborting status byte opens nothing. -/
theorem test_colStatus : fed (framing .collect .pc 1 [0xC0]) 0xC1 = some (.idle, 0, false, Event.empty) := by decide

/-- F29: overflow wins over EOX. -/
theorem test_sxOverflow : fed (framing .collectSysex .pc 256 [0xF0]) 0xF7 = some (.idle, 0, false, Event.empty) := by
  decide

/-- F28: BUF is full with the byte at offset 255. -/
theorem test_sxData : (next? (step (offered (framing .collectSysex .pc 255 [0xF0]) [0x7F]))).map
    (fun t => (t.pstate, t.rcount, t.buf.read 255)) = some (.collectSysex, 256, some 0x7F) := by decide

/-- F32. -/
theorem test_sxEox_min : (next? (step (offered (framing .collectSysex .pc 1 [0xF0]) [0xF7]))).map
    (fun t => (t.pstate, t.rcount, t.flen, t.fvalid, t.ev, t.buf)) =
      some (.idle, 0, 2, true, ⟨.sysex, 0, 0, 0, 2⟩, [(0, 0xF0), (1, 0xF7)]) := rfl

/-- F33: the largest frame. -/
theorem test_sxEox_max : fed (framing .collectSysex .pc 255 [0xF0]) 0xF7 = some (.idle, 0, true, ⟨.sysex, 0, 0, 0, 256⟩) := by
  decide

/-- F34: SOX does not restart a frame. -/
theorem test_sxStatus : fed (framing .collectSysex .pc 5 [0xF0]) 0xF0 = some (.idle, 0, false, Event.empty) := by decide

/-- T8: RESET in `(COLLECT_SYSEX, 9)`. -/
theorem test_reset : (next? (step { framing .collectSysex .pc 9 [0xF0] with inputs := [.reset] })).map
    (fun t => (t.pstate, t.rcount, t.flen, t.fvalid, t.ev)) = some (.idle, 0, 0, false, Event.empty) := by decide

/-- The outcome names of R192, on F22, F30, F36, F1 and F9. -/
theorem test_cause :
    [(framing .collect .pc 1 [0xC0], 0x80), (framing .collectSysex .pc 256 [0xF0], 0x05),
      (framing .collectSysex .pc 5 [0xF0], 0x80), (State.reset, 0x00), (State.reset, 0x80)].map
      (fun p : State × Byte => (next? (step (offered p.1 [p.2]))).bind (·.cause)) =
    [some .statusInMsg, some .overflow, some .statusInSysex, some .dropData, some .dropUnknown] := by decide

/-- R27: a decoder step, a reset and a step with no input keep no event of an earlier step. -/
theorem test_event_not_kept :
    [[HostInput.word (.dcmd 0x00000000000C)], [.reset], []].map
      (fun l => (next? (step { holding frameMIN with ev := ⟨.sysex, 0, 0, 0, 2⟩, inputs := l })).map (·.ev)) =
    [some Event.empty, some Event.empty, some Event.empty] := by decide

/-- R109 and R111 with CAP = 3: the third byte may complete the frame, and a fourth overflows. -/
theorem test_smallest_capacity :
    (match stepAt (collecting 2 0xF7) with
      | .next t => (t.fvalid, t.flen.toNat, t.buf.read 2, t.ev.kind) = (true, 3, some 0xF7, .sysex)
      | _ => False) ∧
    (match stepAt (collecting 3 0xF7) with
      | .next t => (t.fvalid, t.pstate, t.rcount.toNat, t.ev.kind, t.cause) = (false, .idle, 0, .none, some .overflow)
      | _ => False) := ⟨rfl, rfl⟩

/-! ### The decoder (spec/95_test_vectors.md section 3) -/

/-- G2. -/
theorem test_getb_last : resultOf (exec (.getb 10) (holding frameAX)) = some (0xF7, true) := by decide

/-- G7: at FLEN, the low 8 bits are a draw and the others 0. -/
theorem test_getb_past : resultOf (exec (.getb 11) (holding frameAX)) = some ((Config.draw8 0 0).setWidth 32, true) := rfl

/-- G4. -/
theorem test_get7_masks : resultOf (exec (.get7 10) (holding frameAX)) = some (0x77, true) := by decide

/-- G6. -/
theorem test_get7_function : resultOf (exec (.get7 5) (holding frameAX)) = some (0x0F, true) := by decide

/-- H1: the byte at the lower offset is the more significant. -/
theorem test_get14_address : resultOf (exec (.get14 8) (holding frameKM)) = some (0x0205, true) := by decide

/-- H5: the second byte is `0xF7`, masked. -/
theorem test_get14_masks : resultOf (exec (.get14 9) (holding frameAX)) = some (0x07F7, true) := by decide

/-- H10. -/
theorem test_get31_km : resultOf (exec (.get31 8) (holding frameKM)) = some (0x40A000FF, true) := by decide

/-- H11: bits 6:4 of the first byte are dropped. -/
theorem test_get31_masks :
    resultOf (exec (.get31 1) (holding [0xF0, 0x7F, 0x7F, 0x7F, 0x7F, 0x7F, 0xF7])) = some (0xFFFFFFFF, true) := by decide

/-- M1. -/
theorem test_mfreq_equal : resultOf (exec (.mfreq 0x000174) (holding frameAX)) = some (0x000174, true) := by decide

/-- M4. -/
theorem test_mfreq_other : resultOf (exec (.mfreq 0x000174) (holding frameKM)) = some (0x002033, false) := by decide

/-- X1 and X4. -/
theorem test_xorck :
    resultOf (exec .xorck (holding frameAX)) = some (0x0F, true) ∧
    resultOf (exec .xorck (holding frameKM)) = some (0x5C, false) := by decide

/-- X5: an empty XOR against `0xF0`. -/
theorem test_xorck_min : resultOf (exec .xorck (holding frameMIN)) = some (0x00, false) := by decide

/-- X7. -/
theorem test_getlen : resultOf (exec .getlen (holding frameAX)) = some (11, true) := by decide

/-- X10: the window is closed. -/
theorem test_getlen_closed : resultOf (exec .getlen State.reset) = some (Config.draw32 0, Config.draw1 0) := rfl

/-- B1 and B8. -/
theorem test_blkcnt :
    resultOf (exec .blkcnt (holding frameBLK)) = some (2, true) ∧
    resultOf (exec .blkcnt (holding frameX6)) = some (0, true) := by decide

/-- B10. -/
theorem test_blkcnt_short : resultOf (exec .blkcnt (holding frameMIN)) = some (Config.draw32 0, Config.draw1 0) := rfl

/-- B3 and B4. -/
theorem test_blkoff :
    resultOf (exec (.blkoff 1) (holding frameBLK)) = some (11, true) ∧
    resultOf (exec (.blkoff 2) (holding frameBLK)) = some (0, false) := by decide

/-- B11. -/
theorem test_blkoff_short : resultOf (exec (.blkoff 0) (holding frameMIN)) = some (Config.draw32 0, Config.draw1 0) := rfl

/-- K2 and K3. -/
theorem test_multi14 :
    resultOf (exec (.multi14 1) (holding frameKM)) = some (0x3FFF, true) ∧
    resultOf (exec (.multi14 2) (holding frameKM)) = some (0x2000, true) := by decide

/-- K4. -/
theorem test_multi14_past : resultOf (exec (.multi14 3) (holding frameKM)) = some (0, false) := by decide

/-- K8. -/
theorem test_multi31 : resultOf (exec (.multi31 0) (holding frameEXT)) = some (0x7FFFFFFF, true) := by decide

/-- K9. -/
theorem test_multi31_past : resultOf (exec (.multi31 1) (holding frameEXT)) = some (0, false) := by decide

/-- N1, N8 and N10, under either value of STR_ROOM. -/
theorem test_strlen (room : StrRoom) :
    stringAnswer room 6 16 (holding frameAX) = (2, true) ∧ stringAnswer room 9 16 (holding frameAX) = (1, false) ∧
    stringAnswer room 65535 16 (holding frameAX) = (0, false) := by cases room <;> decide

/-- N3, N4 and N5: the limit under each value of STR_ROOM. -/
theorem test_strlen_limit :
    [2, 1, 0].map (stringAnswer .maxlenMinus1 6 · (holding frameAX)) = [(1, false), (0, false), (0, false)] ∧
    [2, 1, 0].map (stringAnswer .maxlen 6 · (holding frameAX)) = [(2, true), (1, false), (0, false)] := by decide

/-- S11: 0 follows 127. -/
theorem test_nextAscCounter : nextAscCounter 0x7F = 0x00 := by decide

/-! ### Witnesses: for each statement with hypotheses, states and operands that meet them together -/

/-- `[0xF0, 0x7D, 0xF7]` (T3). -/
def frameT3 : List Byte := [0xF0, 0x7D, 0xF7]

/-- A state that holds T3's frame meets the invariants, whatever the host offers. -/
theorem witness_sound_frame (l : List HostInput) : Sound { holding frameT3 with inputs := l } := by
  have hn : 2 ≤ (holding frameT3).flen.toNat ∧ (holding frameT3).flen.toNat ≤ Config.cap := by decide
  have hp : PState.idle ≠ .collect ∧ PState.idle ≠ .collectSysex := by decide
  refine ⟨fun _ => rfl, fun h => absurd h hp.1, fun h => absurd h hp.2, fun _ => ⟨rfl, hn.1, hn.2, rfl, rfl, ?_⟩,
    rfl, ?_⟩
  · intro i h1 h2
    obtain rfl : i = 1 := by
      have h2 : i + 2 ≤ 3 := h2
      omega
    exact ⟨0x7D, rfl, by decide⟩
  · intro i v h
    have hr : Memory.read [(0, 0xF0), (1, 0x7D), (2, 0xF7)] i = some v := h
    simp only [Memory.read] at hr
    split_ifs at hr <;> subst_vars <;> decide

/-- A state in the middle of a Program Change meets the invariants, whatever the host offers. -/
theorem witness_sound_collect (l : List HostInput) : Sound { framing .collect .pc 1 [0xC5] with inputs := l } := by
  have hp : PState.collect ≠ .idle ∧ PState.collect ≠ .collectSysex ∧ false ≠ true := by decide
  refine ⟨fun h => absurd h hp.1, fun _ => ⟨.inl rfl, Nat.lt_succ_self 1, ⟨0xC5, rfl, rfl⟩, ?_⟩, fun h => absurd h hp.2.1,
    fun h => absurd h hp.2.2, rfl, ?_⟩
  · intro i h1 h2
    have h2 : i < 1 := h2
    omega
  · intro i v h
    have hr : Memory.read [(0, 0xC5)] i = some v := h
    simp only [Memory.read] at hr
    split_ifs at hr
    subst_vars
    decide

/-- In mid-message, and inside the window. -/
theorem witness_ResetStepRestoresState :
    ({ framing .collectSysex .pc 9 [0xF0] with inputs := [.reset] } : State).inputs = .reset :: [] ∧
    ({ holding frameMIN with inputs := [.reset] } : State).inputs = .reset :: [] := ⟨rfl, rfl⟩

theorem witness_StepKeepsInvariants : ∃ t, Sound (offered (holding frameT3) [0xF0]) ∧
    step (offered (holding frameT3) [0xF0]) = .next t := ⟨_, witness_sound_frame _, rfl⟩

theorem witness_StepKeepsBufferCanonical : ∃ t, (offered (holding frameT3) [0xC5]).buf.wf = true ∧
    step (offered (holding frameT3) [0xC5]) = .next t := ⟨_, rfl, rfl⟩

/-- A state whose next input is a byte, and one whose next input is a reserved command. -/
theorem witness_StepsNeverFault : Sound (offered (framing .collect .pc 1 [0xC5]) [0x7F]) ∧
    Sound { holding frameT3 with inputs := [.word (.dcmd 0x00000000000D)] } ∧ isReserved 0x00000000000D :=
  ⟨witness_sound_collect _, witness_sound_frame _, .inr (.inl rfl)⟩

/-- No input; a word that decodes; a reserved command; a reset; and the four contexts. -/
theorem witness_StepRunsDecodedInstruction :
    State.reset.inputs = [] ∧
    decode (rxContext (holding frameT3)) (.dcmd 0x00000000000C) = .ok .getlen ∧ Instr.getlen.wellFormed = true ∧
    decode (rxContext (holding frameT3)) (.dcmd 0x00000000001C) = .error (.reservedField 1) ∧
    ({ State.reset with inputs := [.reset] } : State).inputs = .reset :: [] ∧
    rxContext State.reset = .idle ∧ rxContext (framing .collect .pc 1 [0xC5]) = .collect ∧
    rxContext (framing .collectSysex .pc 255 [0xF0]) = .sysex ∧
    rxContext (framing .collectSysex .pc 256 [0xF0]) = .sysexFull := ⟨rfl, rfl, rfl, rfl, rfl, rfl, rfl, rfl, rfl⟩

/-- The clauses on ignored operands: `b` for GETB and MULTI31, `a` for MFREQ, both for XORCK, BLKCNT and GETLEN. -/
theorem witness_ReservedCommandsAreRefused :
    isReserved 0x00000000000D ∧ isReserved 0x00000000001C ∧
    (cmdRsv 0xFFFFFF000A01 = 0 ∧ cmdRsv 0x000000000A01 = 0 ∧ cmdOp 0xFFFFFF000A01 = cmdOp 0x000000000A01 ∧
      cmdA 0xFFFFFF000A01 = cmdA 0x000000000A01 ∧ cmdOp 0x000000000A01 = 0x1) ∧
    (cmdOp 0xFFFFFF00000A = 0xA ∧ cmdA 0xFFFFFF00000A = cmdA 0x00000000000A) ∧
    (cmdOp 0x000174FFFF05 = 0x5 ∧ cmdB 0x000174FFFF05 = cmdB 0x000174000005) ∧
    (cmdOp 0xFFFFFFFFFF06 = 0x6 ∧ cmdOp 0xFFFFFFFFFF07 = 0x7 ∧ cmdOp 0xFFFFFFFFFF0C = 0xC) := by
  refine ⟨.inr (.inl rfl), .inr (.inr (.inr (.inr (by decide)))), ?_⟩
  decide

/-- An instruction of each context, and a decoder operation. -/
theorem witness_DecodeOfEncode :
    [(Instr.idleUnk 0xF7, RxContext.idle), (.colStatus 0x80, .collect), (.sxStatus 0xF6, .sysex),
      (.sxOverflow 0xF7, .sysexFull), (.strlen 0xFFFF 0xFFFFFF, .idle)].all
      (fun p => p.1.wellFormed && p.1.selectableIn p.2) = true := by decide

theorem witness_EveryByteSelectsOneRule :
    (Instr.sxStatus 0xF6).wellFormed = true ∧ (Instr.sxStatus 0xF6).isDecoder = false ∧
    (Instr.sxStatus 0xF6).selectableIn .sysex = true ∧ encode (.sxStatus 0xF6) = .rxByte 0xF6 := by decide

/-- The ends of each class of R72. -/
theorem witness_IdleStatusClasses :
    [0xC0#8, 0xCF#8].all (fun b => 0xC0 ≤ b.toNat ∧ b.toNat ≤ 0xCF) = true ∧
    [0xB0#8, 0xBF#8].all (fun b => 0xB0 ≤ b.toNat ∧ b.toNat ≤ 0xBF) = true ∧
    (0xF0#8).toNat = 0xF0 ∧ (0xFE#8).toNat = 0xFE ∧
    [0x80#8, 0xAF#8, 0xD0#8, 0xEF#8, 0xF1#8, 0xFD#8, 0xFF#8].all (fun b => 0x80 ≤ b.toNat ∧ b.toNat ≤ 0xAF ∨
      0xD0 ≤ b.toNat ∧ b.toNat ≤ 0xEF ∨ 0xF1 ≤ b.toNat ∧ b.toNat ≤ 0xFD ∨ b.toNat = 0xFF) = true := by decide

theorem witness_IdleDropsLeaveStateAlone :
    0x7F#8 &&& 0x80 = 0x00 ∧ isUnknownStatus 0xF7 = true ∧ isUnknownStatus 0x80 = true ∧
    ((∃ d, Instr.idleData 0x7F = .idleData d) ∨ ∃ b, Instr.idleData 0x7F = .idleUnk b) ∧
    ((∃ d, Instr.idleUnk 0xF7 = .idleData d) ∨ ∃ b, Instr.idleUnk 0xF7 = .idleUnk b) :=
  ⟨rfl, rfl, rfl, .inl ⟨_, rfl⟩, .inr ⟨_, rfl⟩⟩

theorem witness_IdleChannelStatusOpensMessage :
    0xCF#8 &&& 0xF0 = 0xC0 ∧ 0xB0#8 &&& 0xF0 = 0xB0 ∧ Instr.idlePc 0xF = .idlePc ((0xCF#8).extractLsb' 0 4) ∧
    Instr.idleCc 0x0 = .idleCc ((0xB0#8).extractLsb' 0 4) := by decide

/-- The completing and the continuing clause, for each kind: RCOUNT 1 of PC, RCOUNT 1 and 2 of CC; data 0 and 127. -/
theorem witness_ColDataAppendsAndCompletes :
    0x7F#8 &&& 0x80 = 0x00 ∧ 0x00#8 &&& 0x80 = 0x00 ∧
    (framing .collect .pc 1 [0xC5]).rcount.toNat < Config.cap ∧ (framing .collect .pc 1 [0xC5]).rcount.toNat + 1 = 2 ∧
    (framing .collect .cc 1 [0xB3]).rcount.toNat + 1 ≠ 3 ∧ (framing .collect .cc 2 [0xB3, 0x00]).rcount.toNat + 1 = 3 := by
  decide

theorem witness_AbortsReturnToIdle :
    0x80#8 &&& 0x80 = 0x80 ∧ 0xF6#8 &&& 0x80 = 0x80 ∧ 0xF6#8 ≠ 0xF7 ∧
    (framing .collectSysex .pc 256 [0xF0]).pstate = .collectSysex ∧
    (framing .collectSysex .pc 256 [0xF0]).rcount.toNat = Config.cap ∧
    (framing .collectSysex .pc 255 [0xF0]).rcount.toNat < Config.cap := by decide

/-- RCOUNT 255, the last place in BUF, for SX.DATA and SX.EOX. -/
theorem witness_SxDataAppends :
    (framing .collectSysex .pc 255 [0xF0]).pstate = .collectSysex ∧
    (framing .collectSysex .pc 255 [0xF0]).rcount.toNat < Config.cap ∧ 0x7F#8 &&& 0x80 = 0x00 := by decide

theorem witness_SxEoxCompletesFrame :
    (framing .collectSysex .pc 255 [0xF0]).pstate = .collectSysex ∧
    (framing .collectSysex .pc 255 [0xF0]).rcount.toNat < Config.cap := by decide

/-- Both sides of the bound. -/
theorem witness_StoresPastBufferFault :
    ((∃ d, Instr.sxEox = .colData d) ∨ (∃ d, Instr.sxEox = .sxData d) ∨ Instr.sxEox = .sxEox) ∧
    Config.cap ≤ (framing .collectSysex .pc 256 [0xF0]).rcount.toNat ∧
    ¬ Config.cap ≤ (framing .collectSysex .pc 255 [0xF0]).rcount.toNat := ⟨.inr (.inr rfl), by decide, by decide⟩

/-- A byte that opens the window, one that does not, and `0xF7` at RCOUNT = CAP. -/
theorem witness_OnlyEoxOpensWindow :
    (∃ t, step (offered (framing .collectSysex .pc 1 [0xF0]) [0xF7]) = .next t ∧ t.fvalid = true) ∧
    (∃ t, step (offered (framing .collectSysex .pc 1 [0xF0]) [0x00]) = .next t ∧ t.fvalid = false) ∧
    ∃ t, step (offered (framing .collectSysex .pc 256 [0xF0]) [0xF7]) = .next t ∧ t.fvalid = false :=
  ⟨⟨_, rfl, rfl⟩, ⟨_, rfl, rfl⟩, ⟨_, rfl, rfl⟩⟩

/-- One byte for each source of an event. -/
theorem witness_EventSources :
    (∃ t, step (offered State.reset [0xFE]) = .next t ∧ t.ev.kind = .as) ∧
    (∃ t, step (offered (framing .collectSysex .pc 1 [0xF0]) [0xF7]) = .next t ∧ t.ev.kind = .sysex) ∧
    (∃ t, step (offered (framing .collect .pc 1 [0xC5]) [0x7F]) = .next t ∧ t.ev.kind = .pc) ∧
    ∃ t, step (offered (framing .collect .cc 2 [0xB3, 0x00]) [0x00]) = .next t ∧ t.ev.kind = .cc :=
  ⟨⟨_, rfl, rfl⟩, ⟨_, rfl, rfl⟩, ⟨_, rfl, rfl⟩, ⟨_, rfl, rfl⟩⟩

/-- Two states that differ in FLEN, in D.res, in the draw counter and in BUF past the message. -/
theorem witness_FramerStepIsDeterministic :
    Sound (offered (framing .collect .pc 1 [0xC5]) [0x7F]) ∧
    (let s' := { offered (framing .collect .pc 1 [0xC5, 0x01]) [0x7F] with flen := 9, dres := 7, draws := 3 };
      s'.inputs = .word (.rxByte 0x7F) :: [] ∧ s'.pstate = .collect ∧ s'.pkind = .pc ∧ s'.rcount = 1 ∧
      s'.buf.read 0 = some 0xC5) := ⟨witness_sound_collect _, rfl, rfl, rfl, rfl, rfl⟩

/-- The largest channel and data values, and the smallest. -/
theorem witness_ChannelMessagesAreFramed :
    State.reset.pstate = .idle ∧
    feeds (offered State.reset [0xCF, 0x7F, 0x7F]) [0xC#4 ++ 0xF#4, 0#1 ++ 0x7F#7, 0#1 ++ 0x7F#7] [] ∧
    feeds (offered State.reset [0xB0, 0x00, 0x00, 0x00]) [0xB#4 ++ 0x0#4, 0#1 ++ 0#7, 0#1 ++ 0#7, 0#1 ++ 0#7] [] :=
  ⟨rfl, rfl, rfl⟩

/-- The shortest body, and the longest. -/
theorem witness_SysexFrameIsReceived :
    (offered State.reset (sysexFrame [])).pstate = .idle ∧ feeds (offered State.reset (sysexFrame [])) (sysexFrame []) [] ∧
    (∀ b ∈ List.replicate 254 (0x7F : Byte), b.toNat ≤ 0x7F) ∧
    (List.replicate 254 (0x7F : Byte)).length + 2 = Config.cap ∧
    feeds (offered State.reset (sysexFrame (List.replicate 254 0x7F))) (sysexFrame (List.replicate 254 0x7F)) [] := by
  refine ⟨rfl, rfl, fun b hb => ?_, by rw [List.length_replicate]; rfl, (List.append_nil _).symm⟩
  rw [(List.mem_replicate.1 hb).2]
  decide

/-- The shortest body that is too long. -/
theorem witness_OverlongFrameIsAborted :
    (offered State.reset (sysexFrame (List.replicate 255 0x01))).pstate = .idle ∧
    (∀ b ∈ List.replicate 255 (0x01 : Byte), b.toNat ≤ 0x7F) ∧
    Config.cap < (List.replicate 255 (0x01 : Byte)).length + 2 ∧
    feeds (offered State.reset (sysexFrame (List.replicate 255 0x01))) (sysexFrame (List.replicate 255 0x01)) [] ∧
    1 ≤ 257 ∧ 257 ≤ (List.replicate 255 (0x01 : Byte)).length + 2 := by
  refine ⟨rfl, fun b hb => ?_, by rw [List.length_replicate]; decide, (List.append_nil _).symm, by decide,
    by rw [List.length_replicate]⟩
  rw [(List.mem_replicate.1 hb).2]
  decide

/-- The last Program Change and the last Control Change status byte, and, for the third clause, a byte that is neither. -/
theorem witness_OnlyChannelStatusWritesPkind :
    (∃ t, step (offered State.reset [0xCF]) = .next t ∧ t.pkind = .pc) ∧
    (∃ t, step (offered State.reset [0xBF]) = .next t ∧ t.pkind = .cc) ∧
    (0xD0#8 &&& 0xF0 ≠ 0xC0 ∧ 0xD0#8 &&& 0xF0 ≠ 0xB0) ∧ ∃ t, step (offered State.reset [0xD0]) = .next t :=
  ⟨⟨_, rfl, rfl⟩, ⟨_, rfl, rfl⟩, by decide, _, rfl⟩

theorem witness_FramerKeepsDecoderResults :
    (∀ w rest, (offered State.reset [0xFE]).inputs ≠ .word (.dcmd w) :: rest) ∧
    (∀ rest, (offered State.reset [0xFE]).inputs ≠ .reset :: rest) ∧ ∃ t, step (offered State.reset [0xFE]) = .next t :=
  ⟨fun _ _ => by simp [offered], fun _ => by simp [offered], _, rfl⟩

/-- The last offset inside the frame, the first past it, and the closed window. -/
theorem witness_GuardedReadIsDrawOutsideFrame :
    (holding frameAX).fvalid = true ∧ 10 < (holding frameAX).flen.toNat ∧ (holding frameAX).buf.read 10 = some 0xF7 ∧
    (holding frameAX).flen.toNat ≤ 11 ∧ State.reset.fvalid = false := by decide

theorem witness_ClosedWindowGivesDraws : Instr.getlen.isDecoder = true ∧ State.reset.fvalid = false := by decide

theorem witness_DecoderStepKeepsFramer : (Instr.strlen 6 16).isDecoder = true := rfl

/-- GETB and GET7: inside, at FLEN, and the first and last offsets of a sound state. -/
theorem witness_GetbReadsRawByte :
    (holding frameT3).fvalid = true ∧ (2 : BitVec 16).toNat < (holding frameT3).flen.toNat ∧
    (holding frameT3).flen.toNat ≤ (3 : BitVec 16).toNat ∧ Sound (holding frameT3) ∧
    (2 : BitVec 16).toNat + 1 = (holding frameT3).flen.toNat :=
  ⟨rfl, by decide, by decide, witness_sound_frame [], by decide⟩

theorem witness_Get7ReadsSevenBits :
    (holding frameT3).fvalid = true ∧ (2 : BitVec 16).toNat < (holding frameT3).flen.toNat ∧
    (holding frameT3).flen.toNat ≤ (0xFFFF : BitVec 16).toNat ∧ Sound (holding frameT3) ∧
    (2 : BitVec 16).toNat + 1 = (holding frameT3).flen.toNat :=
  ⟨rfl, by decide, by decide, witness_sound_frame [], by decide⟩

/-- An open window, for GET14, GET31, MFREQ and STRLEN; fields inside the frame and past it. -/
theorem witness_Get14ReadsBigEndian : (holding frameKM).fvalid = true ∧ 9 < (holding frameKM).flen.toNat ∧
    (holding frameKM).flen.toNat ≤ 17 := by decide

theorem witness_Get31ReadsBigEndian : (holding frameEXT).fvalid = true ∧ 17 < (holding frameEXT).flen.toNat ∧
    (holding frameEXT).flen.toNat ≤ 19 := by decide

theorem witness_MfreqComparesManufacturer : (holding frameAX).fvalid = true ∧ (holding frameMIN).fvalid = true := by decide

theorem witness_StrlenMeasuresTheString : (holding frameAX).fvalid = true ∧ (16 : BitVec 24).toNat ≠ 0 ∧
    (0 : BitVec 24).toNat = 0 := by decide

/-- The shortest frame, with an empty XOR. -/
theorem witness_XorckChecksTheFrame : (holding frameMIN).fvalid = true ∧ 2 = (holding frameMIN).flen.toNat := by decide

theorem witness_GetlenReadsFlen : (holding frameT3).fvalid = true ∧ Sound (holding frameT3) := ⟨rfl, witness_sound_frame []⟩

/-- FLEN = 6 and FLEN = 5, on both sides of D13's bound. -/
theorem witness_BlkcntCountsChunks :
    (holding [0xF0, 1, 2, 3, 4, 0xF7]).fvalid = true ∧ 6 ≤ (holding [0xF0, 1, 2, 3, 4, 0xF7]).flen.toNat ∧
    (holding [0xF0, 1, 2, 3, 0xF7]).fvalid = true ∧ (holding [0xF0, 1, 2, 3, 0xF7]).flen.toNat < 6 := by decide

/-- The last index found, the first not found, and a frame that is too short. -/
theorem witness_BlkoffBoundsTheIndex :
    (holding frameBLK).fvalid = true ∧ 6 ≤ (holding frameBLK).flen.toNat ∧
    (1 : BitVec 16).toNat < ((holding frameBLK).flen.toNat - 6) / 5 ∧
    ((holding frameBLK).flen.toNat - 6) / 5 ≤ (2 : BitVec 16).toNat ∧ (holding frameMIN).flen.toNat < 6 := by decide

/-- The last index that fits, and the first that does not. -/
theorem witness_Multi14BoundsTheIndex :
    (holding frameKM).fvalid = true ∧ 10 + 2 * (2 : BitVec 16).toNat + 2 ≤ (holding frameKM).flen.toNat ∧
    (holding frameKM).flen.toNat < 10 + 2 * (3 : BitVec 16).toNat + 2 := by decide

theorem witness_Multi31BoundsTheIndex :
    (holding frameEXT).fvalid = true ∧ 13 + 5 * (0 : BitVec 16).toNat + 5 ≤ (holding frameEXT).flen.toNat ∧
    (holding frameEXT).flen.toNat < 13 + 5 * (1 : BitVec 16).toNat + 5 := by decide

/-- Two states that differ past the frame and in PSTATE's registers. -/
theorem witness_DecoderSeesOnlyTheFrame :
    ∃ t t', Instr.getlen.isDecoder = true ∧ (holding frameT3).fvalid = true ∧
      (let s' := { holding frameT3 with buf := (holding frameT3).buf.write 9 0x55, pkind := .cc, dres := 7 };
        s'.fvalid = true ∧ s'.flen = (holding frameT3).flen ∧ s'.draws = (holding frameT3).draws ∧
        (∀ k, k < (holding frameT3).flen.toNat → s'.buf.read k = (holding frameT3).buf.read k) ∧
        exec .getlen (holding frameT3) = .next t ∧ exec .getlen s' = .next t') := by
  refine ⟨_, _, rfl, rfl, rfl, rfl, rfl, ?_, rfl, rfl⟩
  intro k hk
  have hk : k < 3 := hk
  interval_cases k <;> rfl

/-- GET31 whose last byte is the frame's last, and BLKCNT with FLEN = 8. -/
theorem witness_RepeatedCommandAgrees :
    (Instr.get31 3).isDecoder = true ∧ drawFree (.get31 3) (holding frameX6) ∧ drawFree .blkcnt (holding frameX6) ∧
    ∀ j ∈ [Instr.getlen, .getb 0xFFFF], j.isDecoder = true := by
  have hw : ∀ k, k < (holding frameX6).flen.toNat → (holding frameX6).buf.read k ≠ none := by decide
  exact ⟨rfl, ⟨rfl, by decide, hw, by decide, fun _ => by decide⟩, ⟨rfl, by decide, hw, by decide, fun _ => by decide⟩, by decide⟩

/-- The frame KS (S5). -/
theorem witness_holds_KS : holdsFrame (holding frameKS) (kemperSingle 1 0x0205 0x2ABC) := by
  refine ⟨rfl, rfl, fun i v h => ?_⟩
  have hi : i < 13 := (List.getElem?_eq_some_iff.1 h).1
  interval_cases i <;> exact h

/-- The last place a 14-bit value may stand at in KS, with its two bytes; and KS itself. -/
theorem witness_FourteenBitRoundTrip :
    (holding frameKS).fvalid = true ∧ (10 : BitVec 16).toNat + 2 + 1 = (holding frameKS).flen.toNat ∧
    (holding frameKS).buf.read 10 = some ((0x2ABC#14 >>> 7).setWidth 8 &&& 0x7F) ∧
    (holding frameKS).buf.read 11 = some ((0x2ABC#14).setWidth 8 &&& 0x7F) ∧
    holdsFrame (holding frameKS) (kemperSingle 1 0x0205 0x2ABC) := ⟨rfl, rfl, rfl, rfl, witness_holds_KS⟩

/-- The value of EXT at offset 13, the last place it may stand at, index 0 of MULTI31. -/
theorem witness_ThirtyOneBitRoundTrip :
    (holding frameEXT).fvalid = true ∧ (13 : BitVec 16).toNat + 5 + 1 = (holding frameEXT).flen.toNat ∧
    (holding frameEXT).buf.read 13 = some ((0x7FFFFFFF#32 >>> 28).setWidth 8 &&& 0x0F) ∧
    (holding frameEXT).buf.read 14 = some ((0x7FFFFFFF#32 >>> 21).setWidth 8 &&& 0x7F) ∧
    (holding frameEXT).buf.read 15 = some ((0x7FFFFFFF#32 >>> 14).setWidth 8 &&& 0x7F) ∧
    (holding frameEXT).buf.read 16 = some ((0x7FFFFFFF#32 >>> 7).setWidth 8 &&& 0x7F) ∧
    (holding frameEXT).buf.read 17 = some ((0x7FFFFFFF#32).setWidth 8 &&& 0x7F) ∧
    (13 : BitVec 16).toNat = 13 + 5 * (0 : BitVec 16).toNat := ⟨rfl, rfl, rfl, rfl, rfl, rfl, rfl, rfl⟩

theorem witness_Get7EqualsGetbInTheBody : Sound (holding frameT3) ∧ (holding frameT3).fvalid = true ∧
    1 ≤ (1 : BitVec 16).toNat ∧ (1 : BitVec 16).toNat + 2 ≤ (holding frameT3).flen.toNat :=
  ⟨witness_sound_frame [], rfl, by decide, by decide⟩

/-- The shortest frame the check covers, of each vendor: the fourth byte is the frame's last but one. -/
theorem witness_ManufacturerCheckIsExact :
    holdsFrame (holding frameX6) frameX6 ∧ frameX6[0]? = some 0xF0 ∧ 4 ≤ frameX6.length ∧
    frameX6.take 4 = [0xF0, 0x00, 0x01, 0x74] ∧ frameKS.take 4 = [0xF0, 0x00, 0x20, 0x33] := by
  refine ⟨⟨rfl, rfl, fun i v h => ?_⟩, rfl, by decide, rfl, rfl⟩
  have hi : i < 8 := (List.getElem?_eq_some_iff.1 h).1
  interval_cases i <;> exact h

/-- The frames AX, X6 (empty payload) and BLK are the layouts of R85 to R88, with the checksums the spec computed. -/
theorem witness_axefx_layouts :
    axefxFrame 0x06 0x0F [] = frameX6 ∧ presetNameFrame 0x06 [0x41, 0x42] = frameAX ∧
    effectBlockFrame 0x03 0x0E [#v[0x01, 0x02, 0x03, 0x04, 0x05], #v[0x10, 0x20, 0x30, 0x40, 0x50]] = frameBLK := by decide

/-- The frames KM, KS and EXT are the layouts of R89 and R90. -/
theorem witness_kemper_layouts :
    kemperMulti 0x02 0x0205 [0x0001, 0x3FFF, 0x2000] = frameKM ∧ kemperSingle 0x01 0x0205 0x2ABC = frameKS ∧
    kemperExtended 0x03 0x00000001 [0x7FFFFFFF] = frameEXT := by decide

/-- A state made to hold a frame of at most 24 bytes holds it. -/
theorem witness_holding {bs : List Byte} (h : bs.length < 24)
    (hr : ∀ i, i < 24 → ∀ v, bs[i]? = some v → (holding bs).buf.read i = some v) : holdsFrame (holding bs) bs := by
  refine ⟨rfl, count_ofNat ?_, fun i v hv => hr i (by have := (List.getElem?_eq_some_iff.1 hv).1; omega) v hv⟩
  change bs.length ≤ 256
  omega

theorem witness_ChecksumVerifiesItself :
    (∀ b ∈ ([] : List Byte), b.toNat ≤ 0x7F) ∧ holdsFrame (holding frameX6) (axefxFrame 0x06 0x0F []) := by
  rw [witness_axefx_layouts.1]
  exact ⟨by decide, witness_ManufacturerCheckIsExact.1⟩

theorem witness_EffectBlockCountIsExact : holdsFrame (holding frameBLK)
    (effectBlockFrame 0x03 0x0E [#v[0x01, 0x02, 0x03, 0x04, 0x05], #v[0x10, 0x20, 0x30, 0x40, 0x50]]) := by
  rw [witness_axefx_layouts.2.2]
  exact witness_holding (by decide) (by decide)

/-- The last index found and the first not found, of each reader. -/
theorem witness_MultiReadsYieldAllValues :
    holdsFrame (holding frameKM) (kemperMulti 0x02 0x0205 [0x0001, 0x3FFF, 0x2000]) ∧
    [0x0001#14, 0x3FFF#14, 0x2000#14][(2 : BitVec 16).toNat]? = some 0x2000#14 ∧
    [0x0001#14, 0x3FFF#14, 0x2000#14].length ≤ (3 : BitVec 16).toNat ∧
    holdsFrame (holding frameEXT) (kemperExtended 0x03 0x00000001 [0x7FFFFFFF]) ∧
    [0x7FFFFFFF#32][(0 : BitVec 16).toNat]? = some 0x7FFFFFFF#32 ∧ [0x7FFFFFFF#32].length ≤ (1 : BitVec 16).toNat := by
  rw [witness_kemper_layouts.1, witness_kemper_layouts.2.2]
  exact ⟨witness_holding (by decide) (by decide), rfl, by decide, witness_holding (by decide) (by decide), rfl, by decide⟩

/-- The name "AB", with the least `max_len` that leaves room for it. -/
theorem witness_PresetNameIsMeasured :
    holdsFrame (holding frameAX) (presetNameFrame 0x06 [0x41, 0x42]) ∧ (∀ b ∈ [0x41#8, 0x42#8], b ≠ 0x00) ∧
    [0x41#8, 0x42#8].length + 1 ≤ (3 : BitVec 24).toNat := by
  rw [witness_axefx_layouts.2.1]
  exact ⟨witness_holding (by decide) (by decide), by decide, by decide⟩

/-- Widths that hold CAP: 9 and 10 bits for CAP = 256; 2 bits for CAP = 3. -/
theorem witness_CountWidthIsLeast :
    (BitVec.ofNat 9 Config.cap).toNat = Config.cap ∧ (BitVec.ofNat 10 Config.cap).toNat = Config.cap ∧
    256 ≤ Config.cap ∧ (BitVec.ofNat 2 smallest.bytes).toNat = smallest.bytes := by decide

/-- The least value of CAP. -/
theorem witness_StepIsTheInstanceAt256 : smallest.bytes = 3 := rfl

theorem witness_EventIsOfItsOwnStep :
    (let s := { holding frameMIN with ev := ⟨.sysex, 0, 0, 0, 2⟩, inputs := [.word (.dcmd 0x00000000000C)] };
      (∀ b rest, s.inputs ≠ .word (.rxByte b) :: rest) ∧ ∃ t, step s = .next t) :=
  ⟨fun _ _ => by simp, _, rfl⟩

/-- In the smallest block a full frame, RCOUNT = CAP, and one with a place left meet the invariants. -/
theorem witness_sound_collecting {n : Nat} (b : Byte) (h : n = 2 ∨ n = 3) : Sound (collecting n b) := by
  have hn : (collecting n b).rcount.toNat = n := count_ofNat (C := smallest) (by
    have : smallest.bytes = 3 := rfl
    omega)
  have hp : PState.collectSysex ≠ .idle ∧ PState.collectSysex ≠ .collect ∧ false ≠ true := by decide
  refine ⟨fun h => absurd h hp.1, fun h => absurd h hp.2.1, fun _ => ⟨by omega, ?_, rfl, ?_⟩, fun h => absurd h hp.2.2, rfl, ?_⟩
  · rw [hn]
    change n ≤ 3
    omega
  · intro i h1 h2
    have : i = 1 ∨ i = 2 := by omega
    rcases this with rfl | rfl
    · exact ⟨0x01, rfl, by decide⟩
    · exact ⟨0x02, rfl, by decide⟩
  · intro i v hr
    have hr : Memory.read [(0, 0xF0), (1, 0x01), (2, 0x02)] i = some v := hr
    simp only [Memory.read] at hr
    split_ifs at hr <;> subst_vars <;> decide

theorem witness_EveryCapacityKeepsInvariants : ∃ t, Sound (collecting 3 0xF7) ∧ stepAt (collecting 3 0xF7) = .next t :=
  ⟨_, witness_sound_collecting _ (.inr rfl), rfl⟩

/-- The clauses: a byte at RCOUNT = CAP; a data byte and `0xF7` at the last place. -/
theorem witness_EveryCapacityBoundsTheFrame :
    (Sound (collecting 3 0xF7) ∧ (collecting 3 0xF7).rcount.toNat = smallest.bytes) ∧
    (Sound (collecting 2 0x7F) ∧ (collecting 2 0x7F).rcount.toNat < smallest.bytes ∧ (0x7F : Byte).toNat ≤ 0x7F) ∧
    Sound (collecting 2 0xF7) ∧ (collecting 2 0xF7).rcount.toNat < smallest.bytes :=
  ⟨⟨witness_sound_collecting _ (.inr rfl), by decide⟩, ⟨witness_sound_collecting _ (.inl rfl), by decide, by decide⟩,
    witness_sound_collecting _ (.inl rfl), by decide⟩

end Sys2Proof.Machine
end

/-! The width of the three count registers (R6), and CAP as a parameter (R5). -/

namespace Sys2Proof.Machine

variable {C : Capacity}

/-- The reset state with RCOUNT, FLEN and EV.len at `n`, cut to W bits. -/
def withCounts (C : Capacity) (n : Nat) : State C :=
  { State.resetAt C with
    rcount := BitVec.ofNat _ n
    flen := BitVec.ofNat _ n
    ev := ⟨.none, 0, 0, 0, BitVec.ofNat _ n⟩ }

/-- The three count registers hold every number of W bits. -/
theorem withCounts_toNat {n : Nat} (h : n < 2 ^ C.width) :
    (withCounts C n).rcount.toNat = n ∧ (withCounts C n).flen.toNat = n ∧ (withCounts C n).ev.len.toNat = n := by
  have hn : (BitVec.ofNat C.width n).toNat = n := Nat.mod_eq_of_lt h
  exact ⟨hn, hn, hn⟩

/-- A count fits every width that holds the value CAP. -/
theorem count_lt_two_pow {w : Nat} (h : C.bytes < 2 ^ w) (n : Count C) : n.toNat < 2 ^ w :=
  n.isLt.trans_le (Nat.pow_le_pow_right (by decide) (width_le_of_bytes_lt h))

/-- Settles O56: W bits hold every count up to CAP, and W is at most every width that holds CAP. -/
theorem countWidthIsLeast : Obligations.CountWidthIsLeast := by
  refine ⟨fun C => ⟨fun n hn => ?_, fun w hw s => ?_⟩, rfl, fun n => ⟨?_, fun hn => ?_⟩⟩
  · exact ⟨withCounts C n, withCounts_toNat (hn.trans_lt (bytes_lt_two_pow_width C))⟩
  · have hcap : C.bytes < 2 ^ w := hw ▸ (BitVec.ofNat w C.bytes).isLt
    exact ⟨count_lt_two_pow hcap _, count_lt_two_pow hcap _, count_lt_two_pow hcap _⟩
  · rintro ⟨s, rfl, -, -⟩
    exact s.rcount.isLt
  · exact ⟨withCounts Config.capacity n, withCounts_toNat (by rwa [width_eq])⟩

/-- Settles O57: `exec` and `step` are the parameterised dispatch and step at CAP = 256. -/
theorem stepIsTheInstanceAt256 : Obligations.StepIsTheInstanceAt256 :=
  ⟨Capacity.atLeast3, fun n hn => ⟨⟨n, hn⟩, rfl⟩, cap_eq.1, rfl, exec_eq_execAt, step_eq_stepAt⟩

end Sys2Proof.Machine

/-! The invariants of R36 over the steps of the block of every capacity: which states of each PSTATE meet them,
and that a framer, decoder, reset or empty step keeps them. -/

namespace Sys2Proof.Machine

variable {C : Capacity} {s t : State C} {b : Byte}

/-! ### What a framer step does to BUF -/

/-- A framer step leaves BUF alone, or stores the byte it consumes at one offset below CAP. -/
theorem FramerStep.buf (h : FramerStep s b t) :
    t.buf = s.buf ∨ ∃ n, n < C.bytes ∧ t.buf = s.buf.write n b := by
  have h0 : 0 < C.bytes := by have := C.atLeast3; omega
  cases h with
  | idleData | idleAs | idleUnk | colStatus | sxOverflow | sxStatus => exact .inl rfl
  | idlePc | idleCc | idleSox => exact .inr ⟨0, h0, rfl⟩
  | colData _ _ hc | colComplete _ _ hc | sxData _ hc => exact .inr ⟨_, hc, rfl⟩
  | sxEox _ hc hb => exact .inr ⟨_, hc, by rw [hb]; rfl⟩

/-- A framer step keeps the canonical form of BUF. -/
theorem FramerStep.wf (h : FramerStep s b t) (hw : s.buf.wf = true) : t.buf.wf = true := by
  rcases h.buf with hb | ⟨n, -, hb⟩ <;> rw [hb]
  · exact hw
  · exact Memory.wf_write _ _ _ hw

/-- A framer step keeps the listed offsets below CAP. -/
theorem FramerStep.offsetsInRange (h : FramerStep s b t) (ho : offsetsInRange s) : offsetsInRange t := by
  intro i v hr
  rcases h.buf with hb | ⟨n, hn, hb⟩ <;> rw [hb] at hr
  · exact ho i v hr
  · rw [Memory.read_write] at hr
    split at hr
    · omega
    · exact ho i v hr

/-! ### The data bytes of a message after a store at its end -/

/-- A store at `n` leaves the data bytes at other offsets written. -/
theorem dataWritten_write_other {n i : Nat} (ht : t.buf = s.buf.write n b) (hi : i ≠ n) (h : dataWritten s i) :
    dataWritten t i := by
  simpa only [dataWritten, ht, Memory.read_write_other _ _ hi] using h

/-- A data byte appended at `n` extends the written data bytes by one. -/
theorem dataWritten_append {n : Nat} (ht : t.buf = s.buf.write n b) (hb : isStatus b = false)
    (h : ∀ i, 1 ≤ i → i < n → dataWritten s i) : ∀ i, 1 ≤ i → i < n + 1 → dataWritten t i := by
  intro i h1 hi
  by_cases hin : i = n
  · subst hin
    have hlt := (isStatus_eq_false_iff b).1 hb
    exact ⟨b, by rw [ht, Memory.read_write_same], by omega⟩
  · exact dataWritten_write_other ht hin (h i h1 (by omega))

/-! ### The sound states of each PSTATE with the window closed -/

/-- In IDLE with the window closed only RCOUNT and BUF matter. -/
theorem sound_of_idle (hp : t.pstate = .idle) (hr : t.rcount = 0) (hv : t.fvalid = false) (hw : t.buf.wf = true)
    (ho : offsetsInRange t) : Sound t :=
  ⟨fun _ => hr, by simp [collectInv, hp], by simp [sysexInv, hp], by simp [frameInv, hv], hw, ho⟩

/-- In COLLECT with the window closed R36 (ii) and BUF matter. -/
theorem sound_of_collect (hp : t.pstate = .collect) (hc : collectInv t) (hv : t.fvalid = false) (hw : t.buf.wf = true)
    (ho : offsetsInRange t) : Sound t :=
  ⟨by simp [idleInv, hp], hc, by simp [sysexInv, hp], by simp [frameInv, hv], hw, ho⟩

/-- In COLLECT_SYSEX with the window closed R36 (iii) and BUF matter. -/
theorem sound_of_sysex (hp : t.pstate = .collectSysex) (hx : sysexInv t) (hv : t.fvalid = false) (hw : t.buf.wf = true)
    (ho : offsetsInRange t) : Sound t :=
  ⟨by simp [idleInv, hp], by simp [collectInv, hp], hx, by simp [frameInv, hv], hw, ho⟩

/-- Soundness speaks of the framer's registers and BUF only. -/
theorem Sound.congr (h : Sound s) (hp : t.pstate = s.pstate) (hk : t.pkind = s.pkind) (hr : t.rcount = s.rcount)
    (hb : t.buf = s.buf) (hl : t.flen = s.flen) (hv : t.fvalid = s.fvalid) : Sound t := by
  simpa only [Sound, idleInv, collectInv, sysexInv, frameInv, dataWritten, offsetsInRange, hp, hk, hr, hb, hl, hv] using h

/-- The reset state meets the invariants. -/
theorem sound_resetAt (C : Capacity) : Sound (State.resetAt C) :=
  sound_of_idle rfl rfl rfl rfl fun _ _ hr => by simp [State.resetAt] at hr

/-- A reset step gives a state that meets the invariants, from every state. -/
theorem sound_resetStep (s : State C) : Sound (resetStep s) :=
  sound_of_idle rfl rfl rfl rfl fun _ _ hr => by simp at hr

/-! ### The framer's rules -/

/-- R36 (ii) of a message that a channel status byte opens (R102, R103). -/
theorem collectInv_openMessage
    (hb : s.pkind = .pc ∧ typeField b = 0xC#4 ∨ s.pkind = .cc ∧ typeField b = 0xB#4) :
    collectInv (openMessage .collect b s) := by
  refine fun _ => ⟨.inl rfl, ?_, ⟨b, by simp, ?_⟩, fun i h1 hi => ?_⟩
  · rw [openMessage_rcount, count_one, openMessage_pkind]
    cases s.pkind <;> decide
  · rcases hb with ⟨hk, hb⟩ | ⟨hk, hb⟩ <;> simp only [openMessage_pkind, hk, hb]
  · rw [openMessage_rcount, count_one] at hi
    omega

/-- R36 (iii) of a frame that `0xF0` opens (R104). -/
theorem sysexInv_openMessage (s : State C) (p : PState) : sysexInv (openMessage p 0xF0#8 s) := by
  have h3 := C.atLeast3
  refine fun _ => ⟨?_, ?_, by simp, fun i h1 hi => ?_⟩
  · rw [openMessage_rcount, count_one]
  · rw [openMessage_rcount, count_one]
    omega
  · rw [openMessage_rcount, count_one] at hi
    omega

/-- R36 (ii) after a data byte that leaves the message open (R107): it was its first data byte. -/
theorem collectInv_appended (hs : Sound s) (hp : s.pstate = .collect) (hb : isStatus b = false)
    (hc : s.rcount.toNat < C.bytes) (hm : messageComplete (appended b s) = false) : collectInv (appended b s) := by
  obtain ⟨-, hcol, -⟩ := hs
  obtain ⟨hr, hlen, ⟨v, hv, hty⟩, hd⟩ := hcol hp
  have hn : (appended b s).rcount.toNat = s.rcount.toNat + 1 := count_succ hc
  have hne : s.rcount.toNat + 1 ≠ s.pkind.len := by
    have hk : (appended b s).pkind = s.pkind := rfl
    simpa [messageComplete, hn, hk] using hm
  have h1 : 1 ≤ s.rcount.toNat := by
    rcases hr with hr | hr <;> rw [hr]
    · exact count_one.ge
    · exact count_two.ge.trans' (by decide)
  have hle : s.pkind.len ≤ 3 := by cases s.pkind <;> decide
  refine fun _ => ⟨.inr (BitVec.eq_of_toNat_eq ?_), ?_, ⟨v, ?_, hty⟩, ?_⟩
  · rw [hn, count_two]
    omega
  · rw [hn]
    exact lt_of_le_of_ne hlen hne
  · exact (Memory.read_write_other _ _ (by omega)).trans hv
  · rw [hn]
    exact dataWritten_append rfl hb hd

/-- R36 (iii) after a data byte of a SysEx frame (R110). -/
theorem sysexInv_appended (hs : Sound s) (hp : s.pstate = .collectSysex) (hb : isStatus b = false)
    (hc : s.rcount.toNat < C.bytes) : sysexInv (appended b s) := by
  obtain ⟨-, -, hsx, -⟩ := hs
  obtain ⟨h1, -, h0, hd⟩ := hsx hp
  have hn : (appended b s).rcount.toNat = s.rcount.toNat + 1 := count_succ hc
  refine fun _ => ⟨by omega, by omega, (Memory.read_write_other _ _ (by omega)).trans h0, ?_⟩
  rw [hn]
  exact dataWritten_append rfl hb hd

/-- R36 (iv) of the frame that `0xF7` completes (R111). -/
theorem frameInv_frameCompleted (hs : Sound s) (hp : s.pstate = .collectSysex) (hc : s.rcount.toNat < C.bytes) :
    frameInv (frameCompleted s) := by
  obtain ⟨-, -, hsx, -⟩ := hs
  obtain ⟨h1, -, h0, hd⟩ := hsx hp
  have hn : (frameCompleted s).flen.toNat = s.rcount.toNat + 1 := count_succ hc
  have hbuf : (frameCompleted s).buf = s.buf.write s.rcount.toNat 0xF7#8 := rfl
  refine fun _ => ⟨rfl, by omega, by omega, ?_, ?_, fun i hi1 hi => ?_⟩
  · rw [hbuf, Memory.read_write_other _ _ (by omega), h0]
  · rw [hn, Nat.add_sub_cancel, hbuf, Memory.read_write_same]
  · exact dataWritten_write_other hbuf (by omega) (hd i hi1 (by omega))

/-- Every rule of the framer keeps the invariants of R36. -/
theorem FramerStep.sound (h : FramerStep s b t) (hs : Sound s) : Sound t := by
  have ⟨hidle, _, _, _, hw, ho⟩ := hs
  have hw := h.wf hw
  have ho := h.offsetsInRange ho
  cases h with
  | idleData hp | idleAs hp | idleUnk hp => exact sound_of_idle hp (hidle hp) rfl hw ho
  | colComplete | colStatus | sxOverflow | sxStatus => exact sound_of_idle rfl rfl rfl hw ho
  | idlePc _ hb => exact sound_of_collect rfl (collectInv_openMessage (.inl ⟨rfl, hb⟩)) rfl hw ho
  | idleCc _ hb => exact sound_of_collect rfl (collectInv_openMessage (.inr ⟨rfl, hb⟩)) rfl hw ho
  | colData hp hb hc hm => exact sound_of_collect hp (collectInv_appended hs hp hb hc hm) rfl hw ho
  | idleSox _ hb =>
    subst hb
    exact sound_of_sysex rfl (sysexInv_openMessage _ _) rfl hw ho
  | sxData hp hc hb => exact sound_of_sysex hp (sysexInv_appended hs hp hb hc) rfl hw ho
  | sxEox hp hc =>
    exact ⟨fun _ => rfl, by simp [collectInv, frameCompleted], by simp [sysexInv, frameCompleted],
      frameInv_frameCompleted hs hp hc, hw, ho⟩

/-! ### Every step -/

/-- A decoder operation keeps the invariants: it writes none of what they speak of (R140). -/
theorem sound_of_decoder {i : Instr} (hi : i.isDecoder = true) (hs : Sound s) (h : execAt i s = .next t) : Sound t := by
  rw [execAt_decoder s hi, decoderStep_eq] at h
  cases h
  exact hs.congr rfl rfl rfl rfl rfl rfl

/-- The host's schedule is no part of the invariants. -/
theorem Sound.withInputs (hs : Sound s) (l : List HostInput) : Sound { s with inputs := l } :=
  hs.congr rfl rfl rfl rfl rfl rfl

/-- Every step of the block of every capacity keeps the invariants of R36. -/
theorem sound_of_stepAt (hs : Sound s) (h : stepAt s = .next t) : Sound t := by
  rcases stepAt_cases s with ⟨-, he⟩ | ⟨rest, -, he⟩ | ⟨b, rest, hin, -⟩ | ⟨w, rest, i, -, hi, -, he⟩ |
      ⟨w, rest, r, -, -, he⟩
  case inr.inr.inl => exact (framerStep_of_step hin h).sound (hs.withInputs rest)
  case inr.inr.inr.inl => exact sound_of_decoder hi (hs.withInputs rest) (he.symm.trans h)
  all_goals
    rw [he] at h
    cases h
  · exact hs.congr rfl rfl rfl rfl rfl rfl
  · exact sound_resetStep _

/-- Settles O58: the reset state is sound, and soundness is kept whichever kind of step the host's next input asks for. -/
theorem everyCapacityKeepsInvariants : Obligations.EveryCapacityKeepsInvariants :=
  fun C => ⟨sound_resetAt C, fun _ _ => sound_of_stepAt⟩

end Sys2Proof.Machine

/-! A SysEx frame is collected up to CAP bytes and aborted past it (R109 to R111), for every capacity. -/

namespace Sys2Proof.Machine

variable {C : Capacity} {s t : State C} {b : Byte}

/-- A byte has one effect: the rules of the framer give at most one next state. -/
theorem FramerStep.unique {u : State C} (ht : FramerStep s b t) (hu : FramerStep s b u) : t = u :=
  Host.Outcome.next.inj ((execAt_of_framerStep ht).symm.trans (execAt_of_framerStep hu))

/-- An open message leaves room in BUF: RCOUNT is below LEN(PKIND), which is at most 3 (R36 (ii)). -/
theorem Sound.collect_rcount_lt (hs : Sound s) (hp : s.pstate = .collect) : s.rcount.toNat < C.bytes := by
  obtain ⟨-, hcol, -⟩ := hs
  obtain ⟨-, hlen, -⟩ := hcol hp
  have hle : s.pkind.len ≤ 3 := by cases s.pkind <;> decide
  have h3 := C.atLeast3
  omega

/-- The count of an open SysEx frame is at most CAP (R36 (iii)). -/
theorem Sound.sysex_rcount_le (hs : Sound s) (hp : s.pstate = .collectSysex) : s.rcount.toNat ≤ C.bytes := by
  obtain ⟨-, -, hsx, -⟩ := hs
  obtain ⟨-, hle, -⟩ := hsx hp
  exact hle

/-- From a sound state one of the framer's rules takes every byte. -/
theorem Sound.framerStep (hs : Sound s) (b : Byte) : ∃ t, FramerStep s b t := by
  obtain ⟨t, ht⟩ := framer_completes b hs.collect_rcount_lt hs.sysex_rcount_le
  exact ⟨t, framerStep_of_exec ht⟩

/-- Settles O59: a sound state takes every byte, and each clause is about the one rule that its conditions select. -/
theorem everyCapacityBoundsTheFrame : Obligations.EveryCapacityBoundsTheFrame := by
  intro C s b rest hs hin
  obtain ⟨t, ht⟩ := (hs.withInputs rest).framerStep b
  refine ⟨t, stepAt_of_framerStep hin ht, fun hp hc => ?_, fun hp hc hb => ?_, fun hp hc hb => ?_⟩
  · obtain rfl := ht.unique (.sxOverflow hp hc)
    exact ⟨rfl, rfl, rfl, rfl, fun _ => rfl⟩
  · obtain rfl := ht.unique (.sxData hp hc ((isStatus_eq_false_iff b).2 (by omega)))
    exact ⟨hp, count_succ hc, Memory.read_write_same _ _ _, fun _ hi => Memory.read_write_other _ _ hi⟩
  · subst hb
    obtain rfl := ht.unique (.sxEox hp hc rfl)
    exact ⟨rfl, count_succ hc, rfl, Memory.read_write_same _ _ _, fun _ hi => Memory.read_write_other _ _ hi⟩

end Sys2Proof.Machine

/-! The state over one step: what each kind of step writes of PKIND, FVALID, EV, D.res and D.ok, the invariants of R36
at CAP = 256, and the reset values. -/

namespace Sys2Proof.Machine

variable {C : Capacity} {s t : State C} {b : Byte}

/-! ### What a framer step writes -/

/-- No rule of the framer writes D.res or D.ok (R33), the host's schedule or the draw counter. -/
theorem FramerStep.keeps (h : FramerStep s b t) : framerKeeps s t := by
  cases h <;> exact ⟨rfl, rfl, rfl, rfl⟩

/-- The prologue closes the window (R100), and of the rules only SX.EOX opens it again (R111). -/
theorem FramerStep.fvalid_iff (h : FramerStep s b t) :
    t.fvalid = true ↔ s.pstate = .collectSysex ∧ s.rcount.toNat ≠ C.bytes ∧ b = 0xF7#8 := by
  cases h with
  | idleData hp | idlePc hp | idleCc hp | idleSox hp | idleAs hp | idleUnk hp
  | colData hp | colComplete hp | colStatus hp =>
    exact iff_of_false Bool.false_ne_true fun ⟨hx, _⟩ => PState.noConfusion (hp.symm.trans hx)
  | sxOverflow _ hc => exact iff_of_false Bool.false_ne_true fun ⟨_, hne, _⟩ => hne hc
  | sxData _ _ hb | sxStatus _ _ hb =>
    refine iff_of_false Bool.false_ne_true fun ⟨_, _, hF7⟩ => ?_
    subst hF7
    exact absurd hb (by decide)
  | sxEox hp hc hb => exact iff_of_true rfl ⟨hp, hc.ne, hb⟩

/-- A Program Change status byte in IDLE leaves PKIND at PC (R102). -/
theorem FramerStep.pkind_of_pc (h : FramerStep s b t) (hp : s.pstate = .idle) (hb : typeField b = 0xC#4) :
    t.pkind = .pc := by
  obtain rfl := h.unique (.idlePc hp hb)
  rfl

/-- A Control Change status byte in IDLE leaves PKIND at CC (R103). -/
theorem FramerStep.pkind_of_cc (h : FramerStep s b t) (hp : s.pstate = .idle) (hb : typeField b = 0xB#4) :
    t.pkind = .cc := by
  obtain rfl := h.unique (.idleCc hp hb)
  rfl

/-- Every byte but a channel status byte in IDLE leaves PKIND as it was (R24, log 20). -/
theorem FramerStep.pkind_of_ne (h : FramerStep s b t)
    (hn : s.pstate = .idle → typeField b ≠ 0xC#4 ∧ typeField b ≠ 0xB#4) : t.pkind = s.pkind := by
  cases h with
  | idlePc hp hb => exact absurd hb (hn hp).1
  | idleCc hp hb => exact absurd hb (hn hp).2
  | idleData | idleSox | idleAs | idleUnk | colData | colComplete | colStatus
  | sxOverflow | sxData | sxEox | sxStatus => rfl

/-- The type field of the channel status bytes of R102 and R103, as a mask. -/
theorem mask_eq_iff_typeField : ∀ b : Byte,
    (b &&& 0xF0 = 0xC0 ↔ typeField b = 0xC#4) ∧ (b &&& 0xF0 = 0xB0 ↔ typeField b = 0xB#4) := by decide

/-! ### What a step gives -/

/-- The inversion of a step that gives a next state: by no input, a reset, a rule of the framer, or a decoder step. -/
theorem stepAt_next_cases (h : stepAt s = .next t) :
    (s.inputs = [] ∧ t = noEvent s) ∨
    (∃ rest, s.inputs = .reset :: rest ∧ t = resetStep { s with inputs := rest }) ∨
    (∃ b rest, s.inputs = .word (.rxByte b) :: rest ∧ FramerStep { s with inputs := rest } b t) ∨
    (∃ w rest r, s.inputs = .word (.dcmd w) :: rest ∧ decoderStep { s with inputs := rest } r = .next t) := by
  rcases stepAt_cases s with ⟨hin, he⟩ | ⟨rest, hin, he⟩ | ⟨b, rest, hin, -⟩ | ⟨w, rest, i, hin, hi, -, he⟩ |
      ⟨w, rest, r, -, -, he⟩
  · exact .inl ⟨hin, Host.Outcome.next.inj (h.symm.trans he)⟩
  · exact .inr (.inl ⟨rest, hin, Host.Outcome.next.inj (h.symm.trans he)⟩)
  · exact .inr (.inr (.inl ⟨b, rest, hin, framerStep_of_step hin h⟩))
  · exact .inr (.inr (.inr ⟨w, rest, _, hin, (execAt_decoder _ hi).symm.trans (he.symm.trans h)⟩))
  · cases h.symm.trans he

/-! ### The statements -/

/-- Settles O4: `step` is the step of the block of CAP = 256, and in the block of every capacity a framer rule, a decoder
operation, a reset and an empty step keep soundness. -/
theorem stepKeepsInvariants : Obligations.StepKeepsInvariants := fun s _ hs h =>
  sound_of_stepAt hs ((step_eq_stepAt s).symm.trans h)

/-- Settles O22: the byte is consumed by one rule of the framer, and only SX.EOX opens the window. -/
theorem onlyEoxOpensWindow : Obligations.OnlyEoxOpensWindow := fun _ _ _ _ hin h =>
  (framerStep_of_step hin h).fvalid_iff

/-- Settles O28: each kind of step that is no framer step clears EV. -/
theorem eventIsOfItsOwnStep : Obligations.EventIsOfItsOwnStep := by
  intro s t hrx h
  rcases stepAt_next_cases h with ⟨-, rfl⟩ | ⟨rest, -, rfl⟩ | ⟨b, rest, hin, -⟩ | ⟨w, rest, r, -, hd⟩
  · exact noEvent_ev s
  · exact resetStep_ev _
  · exact absurd hin (hrx b rest)
  · exact (decoderStep_keeps hd).2

/-- Settles O29: of the framer's rules only IDLE.PC and IDLE.CC write PKIND, and an empty or a decoder step keeps it. -/
theorem onlyChannelStatusWritesPkind : Obligations.OnlyChannelStatusWritesPkind := by
  intro s t hreset h
  refine ⟨fun b rest hin hp => ?_, fun hn => ?_⟩
  · have hf := framerStep_of_step hin h
    have ⟨hpc, hcc⟩ := mask_eq_iff_typeField b
    exact ⟨fun hb => hf.pkind_of_pc hp (hpc.1 hb), fun hb => hf.pkind_of_cc hp (hcc.1 hb)⟩
  · rcases stepAt_next_cases h with ⟨-, rfl⟩ | ⟨rest, hin, -⟩ | ⟨b, rest, hin, hf⟩ | ⟨w, rest, r, -, hd⟩
    · exact noEvent_pkind s
    · exact absurd hin (hreset rest)
    · have ⟨hpc, hcc⟩ := mask_eq_iff_typeField b
      exact hf.pkind_of_ne fun hp => (hn b rest hin hp).imp (mt hpc.2) (mt hcc.2)
    · obtain ⟨⟨-, hk, -⟩, -⟩ := decoderStep_keeps hd
      exact hk

/-- Settles O30: a framer step and an empty step write neither D.res nor D.ok. -/
theorem framerKeepsDecoderResults : Obligations.FramerKeepsDecoderResults := by
  intro s t hcmd hreset h
  rcases stepAt_next_cases h with ⟨-, rfl⟩ | ⟨rest, hin, -⟩ | ⟨b, rest, -, hf⟩ | ⟨w, rest, r, hin, -⟩
  · exact ⟨noEvent_dres s, noEvent_dok s⟩
  · exact absurd hin (hreset rest)
  · obtain ⟨hres, hok, -⟩ := hf.keeps
    exact ⟨hres, hok⟩
  · exact absurd hin (hcmd w rest)

/-- Settles O33: each of the twelve operations is a decoder step, which completes and keeps the framer. -/
theorem decoderStepKeepsFramer : Obligations.DecoderStepKeepsFramer := fun _ s hi =>
  have he := (exec_decoder s hi).trans (decoderStep_eq s _)
  ⟨_, he, decoderStep_keeps ((exec_decoder s hi).symm.trans he)⟩

/-- Settles O1: each register of the reset state by its value, and BUF lists nothing, so every byte is a draw. -/
theorem resetStateValues : Obligations.ResetStateValues :=
  ⟨rfl, rfl, rfl, rfl, rfl, rfl, rfl, fun _ => rfl⟩

/-- Settles O3: the reset state of every capacity is sound. -/
theorem resetSatisfiesInvariants : Obligations.ResetSatisfiesInvariants := sound_resetAt Config.capacity

end Sys2Proof.Machine

/-! BUF and the ByteAt window (spec/20_memory.md): the canonical form over a step, the store past the buffer, the guarded
read outside the frame, and the step that runs what its word decodes to. -/

namespace Sys2Proof.Machine

variable {C : Capacity} {s t : State C}

/-! ### The canonical form of BUF -/

/-- A decoder step leaves BUF as it is, as a list of cells and not only byte by byte. -/
theorem decoderStep_buf {r : Answer} (h : decoderStep s r = .next t) : t.buf = s.buf := by
  cases h
  rfl

/-- Every step of the block of every capacity keeps the canonical form of BUF. -/
theorem wf_of_stepAt (hw : s.buf.wf = true) (h : stepAt s = .next t) : t.buf.wf = true := by
  rcases stepAt_next_cases h with ⟨-, rfl⟩ | ⟨rest, -, rfl⟩ | ⟨b, rest, -, hf⟩ | ⟨w, rest, r, -, hd⟩
  · exact hw
  · rfl
  · exact hf.wf hw
  · rw [decoderStep_buf hd]
    exact hw

/-- Settles O5: an empty and a decoder step leave BUF alone, a reset empties it, and a framer rule writes at most one byte. -/
theorem stepKeepsBufferCanonical : Obligations.StepKeepsBufferCanonical := fun s _ hw h =>
  wf_of_stepAt hw ((step_eq_stepAt s).symm.trans h)

/-! ### The store past the buffer -/

/-- A store whose continuation always gives a next state faults exactly when RCOUNT is CAP or more (log 11). -/
theorem storeAtCount_fault_iff {b : Byte} {k : State C → Result C} (hk : ∀ u, ∃ v, k u = .next v) :
    storeAtCount b s k = .fault .bufOffset ↔ C.bytes ≤ s.rcount.toNat := by
  refine ⟨fun hfault => Nat.le_of_not_lt fun hlt => ?_, storeAtCount_of_ge⟩
  rw [storeAtCount_of_lt hlt] at hfault
  obtain ⟨v, hv⟩ := hk _
  cases hv.symm.trans hfault

theorem execColData_fault_iff (d : BitVec 7) (s : State C) :
    execColData d s = .fault .bufOffset ↔ C.bytes ≤ s.rcount.toNat := by
  rw [execColData]
  refine storeAtCount_fault_iff (s := prologue s) fun u => ?_
  dsimp only
  split <;> exact ⟨_, rfl⟩

theorem execSxData_fault_iff (d : BitVec 7) (s : State C) :
    execSxData d s = .fault .bufOffset ↔ C.bytes ≤ s.rcount.toNat := by
  rw [execSxData]
  exact storeAtCount_fault_iff (s := prologue s) fun _ => ⟨_, rfl⟩

theorem execSxEox_fault_iff (s : State C) : execSxEox s = .fault .bufOffset ↔ C.bytes ≤ s.rcount.toNat := by
  rw [execSxEox]
  exact storeAtCount_fault_iff (s := prologue s) fun _ => ⟨_, rfl⟩

/-- Settles O21: each of the three rules is one store at RCOUNT, and completes once the store does. -/
theorem storesPastBufferFault : Obligations.StoresPastBufferFault := by
  rintro i s (⟨d, rfl⟩ | ⟨d, rfl⟩ | rfl)
  · exact execColData_fault_iff d s
  · exact execSxData_fault_iff d s
  · exact execSxEox_fault_iff s

/-! ### Reads outside the frame -/

/-- Settles O32: each of the twelve operations is one decoder step, which with the window closed answers draws. -/
theorem closedWindowGivesDraws : Obligations.ClosedWindowGivesDraws := fun i s hi hv => by
  simpa only [Answers, exec_decoder s hi] using decoderStep_closed hv

/-- Settles O31: inside the frame ByteAt reads BUF; with the window closed or past FLEN it draws. -/
theorem guardedReadIsDrawOutsideFrame : Obligations.GuardedReadIsDrawOutsideFrame := fun _ _ _ =>
  ⟨fun hv hlt =>
    have hin := byteAt_of_lt hv hlt
    ⟨hin, fun _ hr => hin.trans (bufAt_of_read hr)⟩,
  fun hout => hout.elim byteAt_of_closed byteAt_of_ge⟩

/-! ### The step and its context -/

/-- PSTATE and, in COLLECT_SYSEX, whether RCOUNT is CAP are what each context of the framer stands for (R100, R109). -/
theorem rxContext_iff (s : State C) :
    (rxContext s = .idle ↔ s.pstate = .idle) ∧ (rxContext s = .collect ↔ s.pstate = .collect) ∧
    (rxContext s = .sysexFull ↔ s.pstate = .collectSysex ∧ s.rcount.toNat = C.bytes) ∧
    (rxContext s = .sysex ↔ s.pstate = .collectSysex ∧ s.rcount.toNat ≠ C.bytes) := by
  match hp : s.pstate with
  | .idle => simp [rxContext_idle hp]
  | .collect => simp [rxContext_collect hp]
  | .collectSysex =>
    by_cases hc : s.rcount.toNat = C.bytes
    · simp [rxContext_full hp hc, hc]
    · simp [rxContext_sysex hp hc, hc]

/-- Settles O7: one equation of the step per kind of host input, and the meaning of each context. -/
theorem stepRunsDecodedInstruction : Obligations.StepRunsDecodedInstruction := fun s =>
  ⟨stepAt_of_idle,
    fun _ _ _ hin hd _ => (stepAt_of_word hin).trans (runWord_of_ok hd),
    fun _ _ _ hin hd => (stepAt_of_word hin).trans (runWord_of_error hd),
    fun _ => stepAt_of_reset,
    rxContext_iff s⟩

end Sys2Proof.Machine

/-! The encodings (spec/30_encoding.md): the fields of a built byte and of a built command word, the rule that each class
of bytes selects, and the operation that each `op` spells. -/

namespace Sys2Proof.Machine

/-! ### The fields of a byte built from them (R71) -/

@[simp] theorem isStatus_data : ∀ d : BitVec 7, isStatus (0#1 ++ d) = false := by decide

@[simp] theorem dataField_append (s : BitVec 1) (d : BitVec 7) : dataField (s ++ d) = d :=
  BitVec.extractLsb'_append_eq_right

@[simp] theorem typeField_append (t ch : BitVec 4) : typeField (t ++ ch) = t := BitVec.extractLsb'_append_eq_left

@[simp] theorem channelField_append (t ch : BitVec 4) : channelField (t ++ ch) = ch := BitVec.extractLsb'_append_eq_right

/-! ### The rule of a byte, by its class (R72 to R74, R100) -/

theorem decodeRx_idle_of_data {b : Byte} (h : isStatus b = false) : decodeRx .idle b = .idleData (dataField b) := if_pos h

theorem decodeRx_idle_of_pc : ∀ b : Byte, typeField b = 0xC#4 → decodeRx .idle b = .idlePc (channelField b) := by decide

theorem decodeRx_idle_of_cc : ∀ b : Byte, typeField b = 0xB#4 → decodeRx .idle b = .idleCc (channelField b) := by decide

theorem decodeRx_idle_of_unknown : ∀ b : Byte, isUnknownStatus b = true → decodeRx .idle b = .idleUnk b := by decide

theorem decodeRx_collect_of_data {b : Byte} (h : isStatus b = false) : decodeRx .collect b = .colData (dataField b) :=
  if_pos h

theorem decodeRx_collect_of_status {b : Byte} (h : isStatus b = true) : decodeRx .collect b = .colStatus b :=
  if_neg (by simp [h])

theorem decodeRx_sysex_of_data : ∀ b : Byte, isStatus b = false → decodeRx .sysex b = .sxData (dataField b) := by decide

theorem decodeRx_sysex_of_aborting : ∀ b : Byte, isAbortingStatus b = true → decodeRx .sysex b = .sxStatus b := by decide

/-- The byte that spells a framer rule selects it, in the context that the rule belongs to. -/
theorem decodeRx_of_encode {i : Instr} {c : RxContext} {b : Byte} (hw : i.wellFormed = true)
    (hs : i.selectableIn c = true) (he : encode i = .rxByte b) : decodeRx c b = i := by
  cases i <;> cases he <;> cases eq_of_beq hs
  case idleData d => rw [decodeRx_idle_of_data (isStatus_data d), dataField_append]
  case idlePc ch => rw [decodeRx_idle_of_pc _ (typeField_append _ ch), channelField_append]
  case idleCc ch => rw [decodeRx_idle_of_cc _ (typeField_append _ ch), channelField_append]
  case idleUnk => exact decodeRx_idle_of_unknown b hw
  case colData d => rw [decodeRx_collect_of_data (isStatus_data d), dataField_append]
  case colStatus => exact decodeRx_collect_of_status hw
  case sxData d => rw [decodeRx_sysex_of_data _ (isStatus_data d), dataField_append]
  case sxStatus => exact decodeRx_sysex_of_aborting b hw
  case idleSox | idleAs | sxOverflow | sxEox => rfl

/-! ### The fields of a command word (R92) -/

section
variable (b : BitVec 24) (a : BitVec 16) (op : BitVec 4)

@[simp] theorem cmdOp_makeCmd : cmdOp (makeCmd b a op) = op := BitVec.extractLsb'_append_eq_right

@[simp] theorem cmdRsv_makeCmd : cmdRsv (makeCmd b a op) = 0#4 := by
  rw [cmdRsv, makeCmd, BitVec.extractLsb'_append_eq_of_le (by decide), BitVec.extractLsb'_append_eq_right]

@[simp] theorem cmdA_makeCmd : cmdA (makeCmd b a op) = a := by
  rw [cmdA, makeCmd, BitVec.extractLsb'_append_eq_of_le (by decide), BitVec.extractLsb'_append_eq_of_le (by decide),
    BitVec.extractLsb'_append_eq_right]

@[simp] theorem cmdB_makeCmd : cmdB (makeCmd b a op) = b := by
  rw [cmdB, makeCmd, BitVec.extractLsb'_append_eq_of_le (by decide), BitVec.extractLsb'_append_eq_of_le (by decide),
    BitVec.extractLsb'_append_eq_left]

end

/-! ### The operation of a command word, by its `op` (R93) -/

section
variable {n : Nat} {f : BitVec 16 → BitVec 24 → Instr} {c : RxContext}

/-- The framer's context plays no part in a command, and `rsv` only in whether it is reserved (R94, R140). -/
theorem commandSpells_of_decodeOp (h : ∀ w, (cmdOp w).toNat = n → decodeOp w = .ok (f (cmdA w) (cmdB w))) :
    commandSpells n f := fun _ w hr ho => (if_pos hr).trans (h w ho)

/-- A built command word spells its operation on the operands it was built from. -/
theorem commandSpells.decode_makeCmd (h : commandSpells n f) {b : BitVec 24} {a : BitVec 16} {op : BitVec 4}
    (ho : op.toNat = n) : decode c (.dcmd (makeCmd b a op)) = .ok (f a b) := by
  simpa using h c (makeCmd b a op) (by simp) (by simpa using ho)

/-- Words of one operation decode alike when the operation makes the same of their operand fields. -/
theorem commandSpells.decode_congr (h : commandSpells n f) {w v : CmdWord} (hw : cmdRsv w = 0) (hv : cmdRsv v = 0)
    (ho : cmdOp v = cmdOp w) (hn : (cmdOp w).toNat = n) (hf : f (cmdA v) (cmdB v) = f (cmdA w) (cmdB w)) :
    decode c (.dcmd v) = decode c (.dcmd w) :=
  calc decode c (.dcmd v) = .ok (f (cmdA v) (cmdB v)) := h c v hv (ho ▸ hn)
    _ = .ok (f (cmdA w) (cmdB w)) := congrArg _ hf
    _ = decode c (.dcmd w) := (h c w hw hn).symm

end

theorem commandSpells_getb : commandSpells 0x1 (fun a _ => .getb a) :=
  commandSpells_of_decodeOp fun w ho => by simp only [decodeOp, ho]

theorem commandSpells_get7 : commandSpells 0x2 (fun a _ => .get7 a) :=
  commandSpells_of_decodeOp fun w ho => by simp only [decodeOp, ho]

theorem commandSpells_get14 : commandSpells 0x3 (fun a _ => .get14 a) :=
  commandSpells_of_decodeOp fun w ho => by simp only [decodeOp, ho]

theorem commandSpells_get31 : commandSpells 0x4 (fun a _ => .get31 a) :=
  commandSpells_of_decodeOp fun w ho => by simp only [decodeOp, ho]

theorem commandSpells_mfreq : commandSpells 0x5 (fun _ b => .mfreq b) :=
  commandSpells_of_decodeOp fun w ho => by simp only [decodeOp, ho]

theorem commandSpells_xorck : commandSpells 0x6 (fun _ _ => .xorck) :=
  commandSpells_of_decodeOp fun w ho => by simp only [decodeOp, ho]

theorem commandSpells_blkcnt : commandSpells 0x7 (fun _ _ => .blkcnt) :=
  commandSpells_of_decodeOp fun w ho => by simp only [decodeOp, ho]

theorem commandSpells_blkoff : commandSpells 0x8 (fun a _ => .blkoff a) :=
  commandSpells_of_decodeOp fun w ho => by simp only [decodeOp, ho]

theorem commandSpells_multi14 : commandSpells 0x9 (fun a _ => .multi14 a) :=
  commandSpells_of_decodeOp fun w ho => by simp only [decodeOp, ho]

theorem commandSpells_multi31 : commandSpells 0xA (fun a _ => .multi31 a) :=
  commandSpells_of_decodeOp fun w ho => by simp only [decodeOp, ho]

theorem commandSpells_strlen : commandSpells 0xB (fun a b => .strlen a b) :=
  commandSpells_of_decodeOp fun w ho => by simp only [decodeOp, ho]

theorem commandSpells_getlen : commandSpells 0xC (fun _ _ => .getlen) :=
  commandSpells_of_decodeOp fun w ho => by simp only [decodeOp, ho]

/-- Settles O9: a framer rule's byte selects it in its context, and the fields of a command word are what it is built of. -/
theorem decodeOfEncode : Obligations.DecodeOfEncode := by
  intro i c hw hs
  cases i
  case getb => exact commandSpells_getb.decode_makeCmd rfl
  case get7 => exact commandSpells_get7.decode_makeCmd rfl
  case get14 => exact commandSpells_get14.decode_makeCmd rfl
  case get31 => exact commandSpells_get31.decode_makeCmd rfl
  case mfreq => exact commandSpells_mfreq.decode_makeCmd rfl
  case xorck => exact commandSpells_xorck.decode_makeCmd rfl
  case blkcnt => exact commandSpells_blkcnt.decode_makeCmd rfl
  case blkoff => exact commandSpells_blkoff.decode_makeCmd rfl
  case multi14 => exact commandSpells_multi14.decode_makeCmd rfl
  case multi31 => exact commandSpells_multi31.decode_makeCmd rfl
  case strlen => exact commandSpells_strlen.decode_makeCmd rfl
  case getlen => exact commandSpells_getlen.decode_makeCmd rfl
  case idleData | idlePc | idleCc | idleSox | idleAs | idleUnk | colData | colStatus | sxOverflow | sxData | sxEox
      | sxStatus =>
    exact congrArg Except.ok (decodeRx_of_encode hw hs rfl)

/-- A step on a command word is refused exactly when the word is reserved (R94, R195). -/
theorem stepAt_refused_iff {C : Capacity} {s : State C} {w : CmdWord} {rest : List HostInput}
    (hin : s.inputs = .word (.dcmd w) :: rest) : (∃ r, stepAt s = .refused r) ↔ isReserved w := by
  rw [stepAt_of_word hin]
  rcases decodeCmd_cases w with ⟨i, hi, hd, hr⟩ | ⟨e, he, hr⟩
  · rw [runWord_of_ok (p := .dcmd w) hi, execAt_decoder _ hd, decoderStep_eq]
    exact iff_of_false (fun ⟨_, h⟩ => by cases h) hr
  · exact iff_of_true ⟨_, runWord_of_error (p := .dcmd w) he⟩ hr

/-- Settles O8: only a reserved word does not decode, and each operation's words decode by the fields it uses. -/
theorem reservedCommandsAreRefused : Obligations.ReservedCommandsAreRefused := by
  refine ⟨fun s w rest hin => stepAt_refused_iff hin, fun c w v hw hv ho =>
    ⟨fun hop ha => ?_, fun hop hb => ?_, fun hop => ?_⟩⟩
  · simp only [List.mem_cons, List.not_mem_nil, or_false] at hop
    rcases hop with h | h | h | h | h | h | h
    · exact commandSpells_getb.decode_congr hw hv ho h (congrArg _ ha)
    · exact commandSpells_get7.decode_congr hw hv ho h (congrArg _ ha)
    · exact commandSpells_get14.decode_congr hw hv ho h (congrArg _ ha)
    · exact commandSpells_get31.decode_congr hw hv ho h (congrArg _ ha)
    · exact commandSpells_blkoff.decode_congr hw hv ho h (congrArg _ ha)
    · exact commandSpells_multi14.decode_congr hw hv ho h (congrArg _ ha)
    · exact commandSpells_multi31.decode_congr hw hv ho h (congrArg _ ha)
  · exact commandSpells_mfreq.decode_congr hw hv ho hop (congrArg _ hb)
  · simp only [List.mem_cons, List.not_mem_nil, or_false] at hop
    rcases hop with h | h | h
    · exact commandSpells_xorck.decode_congr hw hv ho h rfl
    · exact commandSpells_blkcnt.decode_congr hw hv ho h rfl
    · exact commandSpells_getlen.decode_congr hw hv ho h rfl

/-- The type field of a byte is its high 4 bits as a number (R71). -/
theorem typeField_eq_iff (b : Byte) (t : BitVec 4) : typeField b = t ↔ b.toNat / 16 = t.toNat := by
  rw [← BitVec.toNat_inj, typeField, BitVec.extractLsb'_toNat, Nat.shiftRight_eq_div_pow,
    Nat.mod_eq_of_lt (by have := b.isLt; omega)]

/-- Settles O12: the ranges of R72 are the type fields C and B, two single bytes, and the class UNK. -/
theorem idleStatusClasses : Obligations.IdleStatusClasses := by
  intro b
  refine ⟨fun h => ?_, fun h => ?_, fun h => ?_, fun h => ?_, fun h => ?_⟩ <;> refine congrArg Except.ok ?_
  · exact decodeRx_idle_of_pc b ((typeField_eq_iff b _).2 (by rw [BitVec.toNat_ofNat]; omega))
  · exact decodeRx_idle_of_cc b ((typeField_eq_iff b _).2 (by rw [BitVec.toNat_ofNat]; omega))
  · obtain rfl : b = 0xF0#8 := BitVec.eq_of_toNat_eq h
    rfl
  · obtain rfl : b = 0xFE#8 := BitVec.eq_of_toNat_eq h
    rfl
  · exact decodeRx_idle_of_unknown b (by simpa [isUnknownStatus, or_assoc] using h)

/-- Settles O60: each accessor unfolds to its command, and those without an argument to its word. -/
theorem accessorsExpandToCommands : Obligations.AccessorsExpandToCommands :=
  ⟨rfl, rfl, rfl, rfl, rfl, rfl, rfl, rfl, rfl, rfl, rfl, rfl, rfl, rfl, fun _ => ⟨rfl, rfl, rfl⟩, fun _ => ⟨rfl, rfl, rfl⟩⟩

end Sys2Proof.Machine

/-! A SysEx frame fed in IDLE (spec/30_encoding.md R75, R78): one of at most CAP bytes is received whole, and a longer one
never completes. -/

namespace Sys2Proof.Machine

variable {C : Capacity} {s t : State C} {b : Byte} {bs : List Byte} {rest : List HostInput}

/-! ### Runs over a stream of bytes -/

/-- A run that begins with a step goes on from the state that the step gives. -/
theorem run_succ_of_step {s t : State} (k : Nat) (h : step s = .next t) :
    Host.Core.run core (k + 1) s = Host.Core.run core k t := by
  have hrun (M : Host.Core) {u v : M.State} (hu : M.step u = .next v) : M.run (k + 1) u = M.run k v := by
    rw [Host.Core.run, hu]
  exact hrun core h

/-- The rule that the first byte of a stream selects is the step, and the rest of the stream is fed after it. -/
theorem FramerStep.step_of_feeds (hf : feeds s (b :: bs) rest)
    (h : FramerStep { s with inputs := bs.map (fun b => .word (.rxByte b)) ++ rest } b t) :
    stepAt s = .next t ∧ feeds t bs rest := by
  obtain ⟨-, -, hin, -⟩ := h.keeps
  exact ⟨stepAt_of_feeds hf h, hin⟩

/-! ### BUF during a frame -/

/-- BUF holds these bytes from offset 0 on. -/
def Memory.holds (m : Memory) (bs : List Byte) : Prop := ∀ i v, bs[i]? = some v → m.read i = some v

theorem Memory.holds_write_zero (m : Memory) (b : Byte) : (m.write 0 b).holds [b] := by
  intro i v h
  obtain ⟨rfl, rfl⟩ : i = 0 ∧ b = v := by simpa [List.getElem?_singleton] using h
  exact Memory.read_write_same m 0 b

/-- A byte stored at the end of what BUF holds extends it. -/
theorem Memory.holds_write_length {m : Memory} (h : m.holds bs) (b : Byte) : (m.write bs.length b).holds (bs ++ [b]) := by
  intro i v hi
  by_cases he : i = bs.length
  · subst he
    rw [Memory.read_write_same]
    simpa using hi
  · rw [Memory.read_write_other _ _ he]
    refine h i v ?_
    have hlt : i < (bs ++ [b]).length := (List.getElem?_eq_some_iff.1 hi).1
    rwa [List.getElem?_append_left (by simp at hlt; omega)] at hi

/-- A SysEx frame is open with these bytes collected. -/
def frameOpen (s : State C) (bs : List Byte) : Prop :=
  s.pstate = .collectSysex ∧ s.rcount.toNat = bs.length ∧ s.buf.holds bs

theorem frameOpen_openMessage (s : State C) (b : Byte) : frameOpen (openMessage .collectSysex b s) [b] :=
  ⟨rfl, count_one, Memory.holds_write_zero _ _⟩

theorem frameOpen_appended (h : frameOpen s bs) (hc : bs.length < C.bytes) (b : Byte) :
    frameOpen (appended b s) (bs ++ [b]) := by
  obtain ⟨hp, hn, hb⟩ := h
  refine ⟨hp, ?_, ?_⟩
  · rw [List.length_append, List.length_singleton, ← hn]
    exact count_succ (hn ▸ hc)
  · simpa only [appended, countUp_buf, hn] using Memory.holds_write_length hb b

theorem holdsFrame_frameCompleted (h : frameOpen s bs) (hc : bs.length < C.bytes) :
    holdsFrame (frameCompleted s) (bs ++ [0xF7#8]) := by
  obtain ⟨-, hn, hb⟩ := h
  refine ⟨rfl, ?_, ?_⟩
  · rw [List.length_append, List.length_singleton, ← hn]
    exact count_succ (hn ▸ hc)
  · have := Memory.holds_write_length hb 0xF7#8
    rwa [← hn] at this

/-! ### A frame that fits -/

/-- `t` has received the frame `bs` whole, with the decoder's results as in `s`. -/
def frameReceived (s t : State C) (bs : List Byte) (rest : List HostInput) : Prop :=
  holdsFrame t bs ∧ t.ev.kind = .sysex ∧ t.ev.len.toNat = bs.length ∧ t.pstate = .idle ∧ t.rcount = 0 ∧
  t.inputs = rest ∧ t.dres = s.dres ∧ t.dok = s.dok

theorem stepAt_sysex_eox (h : frameOpen s bs) (hc : bs.length < C.bytes) (hf : feeds s [0xF7#8] rest) :
    ∃ t, stepAt s = .next t ∧ frameReceived s t (bs ++ [0xF7#8]) rest := by
  have hframe := holdsFrame_frameCompleted h hc
  have ⟨_, hlen, _⟩ := hframe
  obtain ⟨hp, hn, -⟩ := h
  obtain ⟨hs, hin⟩ := FramerStep.step_of_feeds hf (.sxEox hp (hn.trans_lt hc) rfl)
  exact ⟨_, hs, hframe, rfl, hlen, rfl, rfl, hin, rfl, rfl⟩

theorem stepAt_sysex_data (h : frameOpen s bs) (hc : bs.length < C.bytes) (hb : isStatus b = false) {cs : List Byte}
    (hf : feeds s (b :: cs) rest) :
    ∃ t, stepAt s = .next t ∧ frameOpen t (bs ++ [b]) ∧ feeds t cs rest ∧ t.dres = s.dres ∧ t.dok = s.dok := by
  have ho := frameOpen_appended (s := { s with inputs := _ }) h hc b
  obtain ⟨hp, hn, -⟩ := h
  obtain ⟨hs, hin⟩ := FramerStep.step_of_feeds hf (.sxData hp (hn.trans_lt hc) hb)
  exact ⟨_, hs, ho, hin, rfl, rfl⟩

/-- The rest of an open frame that fits into BUF is received. -/
theorem run_frameReceived {rest : List HostInput} (payload : List Byte) (hd : ∀ b ∈ payload, isStatus b = false) :
    ∀ {s : State} {bs : List Byte}, frameOpen s bs → bs.length + payload.length < Config.capacity.bytes →
      feeds s (payload ++ [0xF7#8]) rest →
      ∃ t : State, Host.Core.run core (payload.length + 1) s = .next t ∧
        frameReceived s t (bs ++ payload ++ [0xF7#8]) rest := by
  induction payload with
  | nil =>
    intro s bs h hc hf
    obtain ⟨t, hs, hr⟩ := stepAt_sysex_eox h hc hf
    exact ⟨t, run_succ_of_step 0 hs, by simpa using hr⟩
  | cons b payload ih =>
    intro s bs h hc hf
    obtain ⟨hb, hd⟩ := List.forall_mem_cons.1 hd
    rw [List.length_cons] at hc
    obtain ⟨u, hs, ho, hu, hres, hok⟩ := stepAt_sysex_data h (by omega) hb hf
    obtain ⟨t, ht, hr⟩ := ih hd ho (by rw [List.length_append, List.length_singleton]; omega) hu
    refine ⟨t, (run_succ_of_step _ hs).trans ht, ?_⟩
    simpa [frameReceived, hres, hok] using hr

/-- `0xF0` in IDLE opens a frame of one byte. -/
theorem stepAt_idle_sox (hp : s.pstate = .idle) (hf : feeds s (0xF0#8 :: bs) rest) :
    ∃ t, stepAt s = .next t ∧ frameOpen t [0xF0#8] ∧ feeds t bs rest ∧ t.fvalid = false ∧ t.ev = Event.empty ∧
      t.dres = s.dres ∧ t.dok = s.dok := by
  obtain ⟨hs, hin⟩ := FramerStep.step_of_feeds hf (.idleSox hp rfl)
  exact ⟨_, hs, frameOpen_openMessage (prologue _) _, hin, rfl, rfl, rfl, rfl⟩

/-- The bytes of a body are data bytes (R78). -/
theorem data_of_le_7F (h : ∀ b ∈ bs, b.toNat ≤ 0x7F) : ∀ b ∈ bs, isStatus b = false := fun b hb =>
  (isStatus_eq_false_iff b).2 (Nat.lt_succ_of_le (h b hb))

/-- Settles O26: `0xF0` opens the frame, each byte of the body is appended, and `0xF7` completes it. -/
theorem sysexFrameIsReceived : Obligations.SysexFrameIsReceived := by
  intro s payload rest hp hd hc hf
  obtain ⟨u, hs, ho, hu, -, -, hres, hok⟩ := stepAt_idle_sox hp hf
  have hroom : [0xF0#8].length + payload.length < Config.capacity.bytes := by
    rw [List.length_singleton, Nat.add_comm]
    exact hc
  obtain ⟨t, ht, hr⟩ := run_frameReceived payload (data_of_le_7F hd) ho hroom hu
  refine ⟨t, (run_succ_of_step _ hs).trans ht, ?_⟩
  simpa [frameReceived, sysexFrame, hres, hok] using hr

/-! ### A frame that does not fit -/

/-- The framer has emitted nothing in its last step, and the window is closed. -/
def quiet (s : State C) : Prop := s.fvalid = false ∧ s.ev = Event.empty

/-- No frame is open, or one that overflows before `n` more bytes are stored. -/
def overflowsWithin (s : State C) (n : Nat) : Prop :=
  s.pstate = .idle ∨ s.pstate = .collectSysex ∧ s.rcount.toNat ≤ C.bytes ∧ C.bytes < s.rcount.toNat + n

theorem idle_of_overflowsWithin_zero (h : overflowsWithin s 0) : s.pstate = .idle :=
  h.resolve_right fun ⟨_, hle, hlt⟩ => by omega

/-- A frame that overflows is stored up to CAP bytes and then aborted (R109), and what is left of it is dropped (R101, R106):
its data bytes, and `0xF7` at its end, give no event and leave the window closed. -/
theorem framerStep_of_overflowsWithin {n : Nat} (h : overflowsWithin s (n + 1))
    (hb : isStatus b = false ∨ b = 0xF7#8 ∧ n = 0) : ∃ t, FramerStep s b t ∧ quiet t ∧ overflowsWithin t n := by
  rcases h with hp | ⟨hp, hle, hlt⟩
  · rcases hb with hb | ⟨rfl, -⟩
    · exact ⟨_, .idleData hp hb, ⟨rfl, rfl⟩, .inl hp⟩
    · exact ⟨_, .idleUnk hp (by decide), ⟨rfl, rfl⟩, .inl hp⟩
  · rcases hle.eq_or_lt with heq | hroom
    · exact ⟨_, .sxOverflow hp heq, ⟨rfl, rfl⟩, .inl rfl⟩
    · have hb : isStatus b = false := hb.resolve_right fun ⟨_, hn⟩ => by omega
      have hn : (appended b s).rcount.toNat = s.rcount.toNat + 1 := count_succ hroom
      exact ⟨_, .sxData hp hroom hb, ⟨rfl, rfl⟩, .inr ⟨hp, by omega, by omega⟩⟩

theorem stepAt_of_overflowsWithin {n : Nat} (h : overflowsWithin s (n + 1))
    (hb : isStatus b = false ∨ b = 0xF7#8 ∧ n = 0) (hf : feeds s (b :: bs) rest) :
    ∃ t, stepAt s = .next t ∧ quiet t ∧ overflowsWithin t n ∧ feeds t bs rest := by
  obtain ⟨t, ht, hq, ho⟩ := framerStep_of_overflowsWithin (s := { s with inputs := bs.map _ ++ rest }) h hb
  obtain ⟨hs, hin⟩ := ht.step_of_feeds hf
  exact ⟨t, hs, hq, ho, hin⟩

/-- After each step of the rest of a frame that overflows the framer is quiet, and at its end it is in IDLE. -/
theorem run_of_overflowsWithin {rest : List HostInput} (payload : List Byte) (hd : ∀ b ∈ payload, isStatus b = false) :
    ∀ {s : State} {k : Nat}, quiet s → overflowsWithin s (payload.length + 1) → feeds s (payload ++ [0xF7#8]) rest →
      k ≤ payload.length + 1 →
      ∃ t : State, Host.Core.run core k s = .next t ∧ quiet t ∧
        (k = payload.length + 1 → t.pstate = .idle ∧ t.inputs = rest) := by
  induction payload with
  | nil =>
    intro s k hq ho hf hk
    cases k with
    | zero => exact ⟨s, rfl, hq, by simp⟩
    | succ k =>
      obtain rfl : k = 0 := by simpa using hk
      obtain ⟨t, hs, hq, ho, hin⟩ := stepAt_of_overflowsWithin ho (.inr ⟨rfl, rfl⟩) hf
      exact ⟨t, run_succ_of_step 0 hs, hq, fun _ => ⟨idle_of_overflowsWithin_zero ho, hin⟩⟩
  | cons b payload ih =>
    intro s k hq ho hf hk
    obtain ⟨hb, hd⟩ := List.forall_mem_cons.1 hd
    cases k with
    | zero => exact ⟨s, rfl, hq, by simp⟩
    | succ k =>
      obtain ⟨u, hs, hq, ho, hu⟩ := stepAt_of_overflowsWithin ho (.inl hb) hf
      obtain ⟨t, ht, hr⟩ := ih hd hq ho hu (Nat.le_of_succ_le_succ hk)
      refine ⟨t, (run_succ_of_step k hs).trans ht, ?_⟩
      simpa using hr

/-- Settles O27: a frame longer than CAP overflows before its `0xF7` could be stored. -/
theorem overlongFrameIsAborted : Obligations.OverlongFrameIsAborted := by
  intro s payload rest hp hd hc hf k h1 hk
  obtain ⟨k, rfl⟩ := Nat.exists_eq_add_of_le' h1
  obtain ⟨u, hs, ⟨hx, hn, -⟩, hu, hv, he, -⟩ := stepAt_idle_sox hp hf
  rw [List.length_singleton] at hn
  obtain ⟨hcap, hbytes⟩ := cap_eq
  have ho : overflowsWithin u (payload.length + 1) := .inr ⟨hx, by omega, by omega⟩
  obtain ⟨t, ht, ⟨hv, he⟩, hend⟩ :=
    run_of_overflowsWithin payload (data_of_le_7F hd) ⟨hv, he⟩ ho hu (Nat.le_of_succ_le_succ hk)
  exact ⟨t, (run_succ_of_step k hs).trans ht, hv, he, fun h => hend (by omega)⟩

end Sys2Proof.Machine

/-! The preset-name response (spec/30_encoding.md R88) under the bounded string measure of R161. -/

namespace Sys2Proof.Machine

variable {C : Capacity} {s : State C} {b : Byte} {bs : List Byte}

/-! ### The string measure -/

/-- The scan of R161 counts the bytes before the first `0x00`, where its room reaches that far. -/
theorem scanString_eq {o n room : Nat} (hn : ∀ j, j < n → bufAt s (o + j) ≠ 0x00) (h0 : bufAt s (o + n) = 0x00)
    (hr : n ≤ room) : scanString s o room = n := by
  obtain ⟨-, hcount, hstop⟩ := scanString_spec s o room
  refine le_antisymm (Nat.le_of_not_lt fun hlt => hcount n hlt h0) (Nat.le_of_not_lt fun hlt => ?_)
  rcases hstop with hstop | hstop
  · omega
  · exact hn _ hlt hstop

/-- Either value of STR_ROOM lets a string of fewer than `max_len` characters be counted whole (R7). -/
theorem le_stringLimit (room : StrRoom) {n m : Nat} (h : n + 1 ≤ m) : n ≤ stringLimit room m := by
  cases room <;> simp only [stringLimit] <;> omega

/-- The string measure of a string that ends in `0x00` before the frame's last byte: its length, and D.ok. -/
theorem stringAnswer_eq (room : StrRoom) {a n m : Nat} (hn : ∀ j, j < n → bufAt s (a + j) ≠ 0x00)
    (h0 : bufAt s (a + n) = 0x00) (hm : n + 1 ≤ m) (hl : a + n + 1 < s.flen.toNat) :
    stringAnswer room a m s = (BitVec.ofNat 32 n, true) := by
  have hc : stringCount room a m s = n :=
    scanString_eq hn h0 (le_min (le_stringLimit room hm) (by omega))
  simp [stringAnswer, hc, terminatorAt, hl, h0]

/-! ### The frame -/

/-- The preset-name response, byte by byte (R88). -/
theorem presetNameFrame_eq (model : BitVec 7) (name : List Byte) : ∃ ck, presetNameFrame model name =
    [0xF0, 0x00, 0x01, 0x74, sevenBit model, 0x0F] ++ (name ++ [0x00, ck, 0xF7]) := by
  refine ⟨axefxChecksum (axefxHead model 0x0F (name ++ [0x00])), ?_⟩
  simp [presetNameFrame, axefxFrame, axefxHead, splitId, axefxId, sevenBit]

/-- A byte of a frame that BUF holds is what `bufAt` reads. -/
theorem bufAt_of_holdsFrame {i : Nat} (h : holdsFrame s bs) (hb : bs[i]? = some b) : bufAt s i = b := by
  obtain ⟨-, -, hread⟩ := h
  exact bufAt_of_read (hread i b hb)

/-- Settles O55: the name begins at offset 6 and its `0x00` stands two bytes before the frame's last. -/
theorem presetNameIsMeasured : Obligations.PresetNameIsMeasured := by
  intro s model name m hf hname hm
  obtain ⟨ck, hck⟩ := presetNameFrame_eq model name
  rw [hck] at hf
  have ⟨hv, hlen, _⟩ := hf
  replace hlen : s.flen.toNat = name.length + 9 := by
    rw [hlen, List.length_append, List.length_append]
    exact Nat.add_comm 6 (name.length + 3)
  have hbody (j : Nat) {b : Byte} (hj : (name ++ [0x00, ck, 0xF7])[j]? = some b) : bufAt s (6 + j) = b :=
    bufAt_of_holdsFrame hf (List.getElem?_drop.symm.trans hj)
  have hchar (j : Nat) (hj : j < name.length) : bufAt s (6 + j) ≠ 0x00 := by
    rw [hbody j (b := name[j]) (by rw [List.getElem?_append_left hj, List.getElem?_eq_getElem hj])]
    exact hname _ (List.getElem_mem hj)
  have hend : bufAt s (6 + name.length) = 0x00 := hbody _ (by simp)
  constructor
  · have h5 : byteAt s 0 5 = 0x0F := (byteAt_of_lt hv (by omega)).trans (bufAt_of_holdsFrame hf rfl)
    have := answers_of_open (i := .get7 5) rfl hv
    rwa [decoderAnswer, f7At, show (5 : BitVec 16).toNat = 5 from rfl, h5] at this
  · have := answers_of_open (i := .strlen 6 m) rfl hv
    rwa [decoderAnswer, show (6 : BitVec 16).toNat = 6 from rfl, stringAnswer_eq _ hchar hend hm (by omega)] at this

end Sys2Proof.Machine

/-! The framer's rules one by one (spec/40_framer.md R101 to R114): the rule that each class of bytes selects, and what it
writes from every state. -/

namespace Sys2Proof.Machine

variable {C : Capacity} {s t : State C} {b : Byte}

/-! ### Bytes by their masks (R71) -/

theorem isStatus_eq_false_of_mask : ∀ b : Byte, b &&& 0x80 = 0x00 → isStatus b = false := by decide

theorem isStatus_of_mask : ∀ b : Byte, b &&& 0x80 = 0x80 → isStatus b = true := by decide

/-- A status byte other than `0xF7` aborts a SysEx frame (R74). -/
theorem isAbortingStatus_of_mask (hb : b &&& 0x80 = 0x80) (hne : b ≠ 0xF7#8) : isAbortingStatus b = true := by
  simp [isAbortingStatus, isStatus_of_mask b hb, hne]

/-! ### The dispatch (R100, R196) -/

/-- The rule that R100's dispatch selects belongs to the context, and the byte spells it. -/
theorem decodeRx_spec (c : RxContext) (b : Byte) :
    (decodeRx c b).wellFormed = true ∧ (decodeRx c b).isDecoder = false ∧ (decodeRx c b).selectableIn c = true ∧
    encode (decodeRx c b) = .rxByte b := by
  cases c <;> simp only [decodeRx]
  case idle =>
    split_ifs with h1 h2 h3 h4 h5
    · exact ⟨rfl, rfl, rfl, congrArg _ (data_byte_eq b h1)⟩
    · exact ⟨rfl, rfl, rfl, congrArg _ (pc_byte_eq b h2)⟩
    · exact ⟨rfl, rfl, rfl, congrArg _ (cc_byte_eq b h3)⟩
    · exact ⟨rfl, rfl, rfl, congrArg _ h4.symm⟩
    · exact ⟨rfl, rfl, rfl, congrArg _ h5.symm⟩
    · exact ⟨unknown_of_dispatch b h1 h2 h3 h4 h5, rfl, rfl, rfl⟩
  case collect =>
    split_ifs with h1
    · exact ⟨rfl, rfl, rfl, congrArg _ (data_byte_eq b h1)⟩
    · exact ⟨Bool.of_not_eq_false h1, rfl, rfl, rfl⟩
  case sysex =>
    split_ifs with h1 h2
    · exact ⟨rfl, rfl, rfl, congrArg _ h1.symm⟩
    · exact ⟨by simp [Instr.wellFormed, isAbortingStatus, h1, h2], rfl, rfl, rfl⟩
    · exact ⟨rfl, rfl, rfl, congrArg _ (data_byte_eq b (Bool.of_not_eq_true h2))⟩
  case sysexFull => exact ⟨rfl, rfl, rfl, rfl⟩

/-- Settles O10: the rule is the one that the dispatch selects, and a rule that the byte spells is the one it selects. -/
theorem everyByteSelectsOneRule : Obligations.EveryByteSelectsOneRule := by
  intro c b
  obtain ⟨hw, hd, hs, he⟩ := decodeRx_spec c b
  exact ⟨decodeRx c b, rfl, hw, hd, hs, he, fun j hjw _ hjs hje => (decodeRx_of_encode hjw hjs hje).symm⟩

/-! ### Rules that store no byte -/

/-- Settles O13: both drops are the prologue and a recorded cause. -/
theorem idleDropsLeaveStateAlone : Obligations.IdleDropsLeaveStateAlone := by
  refine ⟨fun b hb => congrArg _ (decodeRx_idle_of_data (isStatus_eq_false_of_mask b hb)),
    fun b hb => congrArg _ (decodeRx_idle_of_unknown b hb), ?_⟩
  rintro i s (⟨d, rfl⟩ | ⟨b, rfl⟩) <;>
    exact ⟨_, rfl, rfl, rfl, rfl, rfl, rfl, rfl, fun _ => rfl, rfl, rfl, rfl, rfl⟩

/-- Settles O16: IDLE.AS is the prologue and its event. -/
theorem idleActiveSenseCompletes : Obligations.IdleActiveSenseCompletes :=
  ⟨rfl, fun _ => ⟨_, rfl, rfl, fun _ => rfl, rfl, rfl, rfl, rfl, rfl, rfl, rfl, rfl, rfl⟩⟩

/-- Settles O18: the three aborts are the prologue and the one error action `abort`. -/
theorem abortsReturnToIdle : Obligations.AbortsReturnToIdle := by
  refine ⟨fun b hb => congrArg _ (decodeRx_collect_of_status (isStatus_of_mask b hb)), fun b s hp hc => ?_,
    fun b s hp hc hb hne => ?_, ?_⟩
  · rw [rxContext_full hp hc]
    rfl
  · rw [rxContext_sysex hp hc.ne]
    exact congrArg _ (decodeRx_sysex_of_aborting b (isAbortingStatus_of_mask hb hne))
  · rintro i b s (rfl | rfl | rfl) <;>
      exact ⟨_, rfl, rfl, rfl, rfl, rfl, rfl, rfl, fun _ => rfl, rfl, rfl, rfl, rfl⟩

/-! ### Rules that store the byte -/

/-- After one store every other byte of BUF is as before. -/
theorem bufSameBut_of_write {o : Nat} (h : t.buf = s.buf.write o b) : bufSameBut o s t := fun i hi => by
  rw [h, Memory.read_write_other _ _ hi]

theorem execIdlePc_eq (s : State C) (hb : typeField b = 0xC#4) :
    execIdlePc (channelField b) s = .next (openMessage .collect b { prologue s with pkind := .pc }) := by
  rw [execIdlePc, pc_byte_eq b hb]

theorem execIdleCc_eq (s : State C) (hb : typeField b = 0xB#4) :
    execIdleCc (channelField b) s = .next (openMessage .collect b { prologue s with pkind := .cc }) := by
  rw [execIdleCc, cc_byte_eq b hb]

/-- Below CAP a data byte in COLLECT is appended, and the message then completes or stays open (R107). -/
theorem execColData_eq (hb : isStatus b = false) (hc : s.rcount.toNat < C.bytes) :
    execColData (dataField b) s = if messageComplete (appended b s)
      then .next (toIdle (emit (messageEvent (appended b s)) (appended b s))) else .next (appended b s) := by
  rw [execColData, data_byte_eq b hb]
  exact storeAtCount_of_lt (s := prologue s) hc

/-- Below CAP a data byte in COLLECT_SYSEX is appended (R110). -/
theorem execSxData_eq (hb : isStatus b = false) (hc : s.rcount.toNat < C.bytes) :
    execSxData (dataField b) s = .next (appended b s) := by
  rw [execSxData, data_byte_eq b hb]
  exact storeAtCount_of_lt (s := prologue s) hc

theorem execSxEox_eq (hc : s.rcount.toNat < C.bytes) : execSxEox s = .next (frameCompleted s) :=
  storeAtCount_of_lt (s := prologue s) hc

/-- The message completes exactly when the new count is LEN(PKIND) (R107). -/
theorem messageComplete_appended (b : Byte) (hc : s.rcount.toNat < C.bytes) :
    messageComplete (appended b s) = true ↔ s.rcount.toNat + 1 = s.pkind.len := by
  have hn : (appended b s).rcount.toNat = s.rcount.toNat + 1 := count_succ hc
  have hk : (appended b s).pkind = s.pkind := rfl
  rw [messageComplete, hn, hk, beq_iff_eq]

/-- Settles O14: each of the two rules opens a message with its byte at offset 0, after the prologue and its kind. -/
theorem idleChannelStatusOpensMessage : Obligations.IdleChannelStatusOpensMessage := by
  have hmask := mask_eq_iff_typeField
  refine ⟨fun b hb => congrArg _ (decodeRx_idle_of_pc b ((hmask b).1.1 hb)),
    fun b hb => congrArg _ (decodeRx_idle_of_cc b ((hmask b).2.1 hb)), ?_⟩
  rintro i b k s (⟨rfl, hb, rfl⟩ | ⟨rfl, hb, rfl⟩)
  · exact ⟨_, execIdlePc_eq s ((hmask b).1.1 hb), Memory.read_write_same _ _ _, bufSameBut_of_write rfl,
      rfl, rfl, rfl, rfl, rfl, rfl, rfl, rfl, rfl, rfl⟩
  · exact ⟨_, execIdleCc_eq s ((hmask b).2.1 hb), Memory.read_write_same _ _ _, bufSameBut_of_write rfl,
      rfl, rfl, rfl, rfl, rfl, rfl, rfl, rfl, rfl, rfl⟩

/-- Settles O15: IDLE.SOX opens a frame with `0xF0` at offset 0, after the prologue. -/
theorem idleSoxOpensFrame : Obligations.IdleSoxOpensFrame :=
  ⟨rfl, fun _ => ⟨_, rfl, Memory.read_write_same _ _ _, bufSameBut_of_write rfl,
    rfl, rfl, rfl, rfl, rfl, rfl, rfl, rfl, rfl, rfl⟩⟩

/-- Settles O17: the byte is appended, and the new count decides between the completion and an open message. -/
theorem colDataAppendsAndCompletes : Obligations.ColDataAppendsAndCompletes := by
  refine ⟨fun b hb => congrArg _ (decodeRx_collect_of_data (isStatus_eq_false_of_mask b hb)), fun b s hb hc => ?_⟩
  have he := execColData_eq (isStatus_eq_false_of_mask b hb) hc
  have hm := messageComplete_appended b hc
  have hread : (appended b s).buf.read s.rcount.toNat = some b := Memory.read_write_same _ _ _
  have hbut : bufSameBut s.rcount.toNat s (appended b s) := bufSameBut_of_write rfl
  by_cases hlen : s.rcount.toNat + 1 = s.pkind.len
  · rw [if_pos (hm.2 hlen)] at he
    exact ⟨_, he, hread, hbut, rfl, rfl, rfl, ⟨rfl, rfl, rfl, rfl⟩, (if_pos hlen).mpr ⟨rfl, rfl, rfl⟩⟩
  · rw [if_neg (mt hm.1 hlen)] at he
    exact ⟨_, he, hread, hbut, rfl, rfl, rfl, ⟨rfl, rfl, rfl, rfl⟩, (if_neg hlen).mpr ⟨rfl, count_succ hc, rfl⟩⟩

/-- Settles O19: below CAP the byte is appended. -/
theorem sxDataAppends : Obligations.SxDataAppends := by
  refine ⟨fun b s hp hc hb => ?_, fun b s hb hc => ?_⟩
  · rw [rxContext_sysex hp hc.ne]
    exact congrArg _ (decodeRx_sysex_of_data b (isStatus_eq_false_of_mask b hb))
  · exact ⟨_, execSxData_eq (isStatus_eq_false_of_mask b hb) hc, Memory.read_write_same _ _ _, bufSameBut_of_write rfl,
      count_succ hc, rfl, rfl, rfl, rfl, rfl, rfl, rfl, rfl, rfl⟩

/-- Settles O20: below CAP `0xF7` is stored, and the frame that ends there is recorded. -/
theorem sxEoxCompletesFrame : Obligations.SxEoxCompletesFrame := by
  refine ⟨fun s hp hc => ?_, fun s hc => ?_⟩
  · rw [rxContext_sysex hp hc.ne]
    rfl
  · exact ⟨_, execSxEox_eq hc, Memory.read_write_same _ _ _, bufSameBut_of_write rfl, count_succ hc,
      rfl, rfl, rfl, rfl, rfl, rfl, rfl, rfl, rfl⟩

end Sys2Proof.Machine

/-! What the framer's step emits and what it depends on (spec/40_framer.md R117, R120), and the channel messages it
frames (R118). -/

namespace Sys2Proof.Machine

variable {C : Capacity} {s s' t : State C} {b : Byte} {bs : List Byte} {rest : List HostInput}

/-! ### The step answers -/

/-- Settles O6: a framer rule takes every byte from a sound state, and of the other steps only one on a reserved command
gives no next state. -/
theorem stepsNeverFault : Obligations.StepsNeverFault := by
  intro s hs
  rcases stepAt_cases s with ⟨-, he⟩ | ⟨rest, -, he⟩ | ⟨b, rest, hin, -⟩ | ⟨w, rest, i, -, hi, -, he⟩ |
      ⟨w, rest, r, hin, hr, -⟩
  · exact .inl ⟨_, he⟩
  · exact .inl ⟨_, he⟩
  · obtain ⟨t, ht⟩ := (hs.withInputs rest).framerStep b
    exact .inl ⟨t, stepAt_of_framerStep hin ht⟩
  · exact .inl ⟨_, he.trans ((execAt_decoder _ hi).trans (decoderStep_eq _ _))⟩
  · exact .inr ⟨w, rest, hin, hr⟩

/-! ### The sources of an event (R117) -/

/-- The kind of event that a completed message of a kind gives (R113, R114). -/
def PKind.evKind : PKind → EvKind
  | .pc => .pc
  | .cc => .cc

theorem messageEvent_kind (s : State C) : (messageEvent s).kind = s.pkind.evKind := by
  rw [messageEvent]
  cases s.pkind <;> rfl

/-- From `s` the byte `b` completes a message whose event has this kind (R105, R107, R111). -/
def completes (s : State C) (b : Byte) : EvKind → Prop
  | .none => False
  | .as => s.pstate = .idle ∧ b = 0xFE
  | .sysex => s.pstate = .collectSysex ∧ s.rcount.toNat ≠ C.bytes ∧ b = 0xF7
  | .pc => s.pstate = .collect ∧ b.toNat < 0x80 ∧ s.pkind = .pc ∧ s.rcount.toNat + 1 = 2
  | .cc => s.pstate = .collect ∧ b.toNat < 0x80 ∧ s.pkind = .cc ∧ s.rcount.toNat + 1 = 3

/-- A data byte completes the message of PKIND's kind at its length (R107). -/
theorem completes_of_len (hp : s.pstate = .collect) (hb : isStatus b = false) (hlen : s.rcount.toNat + 1 = s.pkind.len) :
    completes s b s.pkind.evKind := by
  have hlt := (isStatus_eq_false_iff b).1 hb
  match hk : s.pkind with
  | .pc | .cc => exact ⟨hp, hlt, hk, hlen.trans (congrArg PKind.len hk)⟩

/-- A framer step emits an event only by completing a message of its kind. -/
theorem FramerStep.completes_of_emits (h : FramerStep s b t) (hne : t.ev.kind ≠ .none) : completes s b t.ev.kind := by
  cases h with
  | idleData | idlePc | idleCc | idleSox | idleUnk | colData | colStatus | sxOverflow | sxData | sxStatus =>
    exact absurd rfl hne
  | idleAs hp hb => exact ⟨hp, hb⟩
  | colComplete hp hb hc hm =>
    rw [toIdle_ev, emit_ev, messageEvent_kind]
    exact completes_of_len hp hb ((messageComplete_appended b hc).1 hm)
  | sxEox hp hc hb => exact ⟨hp, hc.ne, hb⟩

/-- The step that opens the window emits SYSEX (R111). -/
theorem FramerStep.sysex_of_fvalid (h : FramerStep s b t) (hv : t.fvalid = true) : t.ev.kind = .sysex := by
  cases h with
  | sxEox => rfl
  | idleData | idlePc | idleCc | idleSox | idleAs | idleUnk | colData | colComplete | colStatus | sxOverflow | sxData
  | sxStatus => exact absurd hv Bool.false_ne_true

/-- A channel message fits BUF: its length is at most 3 (R5, R24). -/
theorem PKind.len_le_bytes (k : PKind) (C : Capacity) : k.len ≤ C.bytes :=
  le_trans (by cases k <;> decide) C.atLeast3

/-- The data byte that reaches LEN(PKIND) emits its message's event (R107). -/
theorem FramerStep.message_of_len (h : FramerStep s b t) (hp : s.pstate = .collect) (hb : b.toNat < 0x80)
    (hlen : s.rcount.toNat + 1 = s.pkind.len) : t.ev.kind = s.pkind.evKind := by
  have hc : s.rcount.toNat < C.bytes := by have := s.pkind.len_le_bytes C; omega
  obtain rfl := h.unique (.colComplete hp ((isStatus_eq_false_iff b).2 hb) hc ((messageComplete_appended b hc).2 hlen))
  exact messageEvent_kind _

/-- A framer step emits an event of each kind exactly when its byte completes a message of that kind. -/
theorem FramerStep.ev_kind_iff (h : FramerStep s b t) {k : EvKind} (hne : k ≠ .none) :
    t.ev.kind = k ↔ completes s b k := by
  refine ⟨fun hk => hk ▸ h.completes_of_emits (hk ▸ hne), fun hcomp => ?_⟩
  match k with
  | .none => exact absurd rfl hne
  | .as =>
    obtain ⟨hp, hb⟩ := hcomp
    obtain rfl := h.unique (.idleAs hp hb)
    rfl
  | .sysex => exact h.sysex_of_fvalid (h.fvalid_iff.2 hcomp)
  | .pc | .cc =>
    obtain ⟨hp, hb, hk, hn⟩ := hcomp
    exact (h.message_of_len hp hb (hn.trans (congrArg PKind.len hk).symm)).trans (congrArg PKind.evKind hk)

/-- Settles O23: the byte is consumed by one rule of the framer, which emits what it completes. -/
theorem eventSources : Obligations.EventSources := fun _ _ _ _ hin h =>
  have hf := framerStep_of_step hin h
  ⟨hf.ev_kind_iff EvKind.noConfusion, hf.ev_kind_iff EvKind.noConfusion, hf.ev_kind_iff EvKind.noConfusion,
    hf.ev_kind_iff EvKind.noConfusion⟩

/-! ### What the step depends on (R120) -/

/-- The two states agree on PSTATE, PKIND, RCOUNT and the bytes of the message being collected. -/
structure SameMessage (s s' : State C) : Prop where
  pstate : s'.pstate = s.pstate
  pkind : s'.pkind = s.pkind
  rcount : s'.rcount = s.rcount
  bytes : ∀ i, i < s.rcount.toNat → s'.buf.read i = s.buf.read i

/-- From `s` to `t` and from `s'` to `t'` the framer emits and writes the same. -/
structure SameEffect (s t s' t' : State C) : Prop where
  ev : t'.ev = t.ev
  pstate : t'.pstate = t.pstate
  pkind : t'.pkind = t.pkind
  rcount : t'.rcount = t.rcount
  fvalid : t'.fvalid = t.fvalid
  flen : t'.flen = t.flen ∨ t.flen = s.flen ∧ t'.flen = s'.flen
  buf : t.buf = s.buf ∧ t'.buf = s'.buf ∨ ∃ o v, t.buf = s.buf.write o v ∧ t'.buf = s'.buf.write o v

/-- The event of a message depends on its kind and its bytes. -/
theorem messageEvent_congr (hk : s'.pkind = s.pkind) (hb : ∀ i, i < s.pkind.len → bufAt s' i = bufAt s i) :
    messageEvent s' = messageEvent s := by
  rw [messageEvent, messageEvent, hk]
  match hkind : s.pkind with
  | .pc =>
    rw [hkind, PKind.len] at hb
    simp only [pcEvent, hb 0 (by decide), hb 1 (by decide)]
  | .cc =>
    rw [hkind, PKind.len] at hb
    simp only [ccEvent, hb 0 (by decide), hb 1 (by decide), hb 2 (by decide)]

/-- Every byte of the message being collected has been written (R36 (ii)). -/
theorem Sound.collect_written (hs : Sound s) (hp : s.pstate = .collect) {i : Nat} (hi : i < s.rcount.toNat) :
    ∃ v, s.buf.read i = some v := by
  obtain ⟨-, hcol, -⟩ := hs
  obtain ⟨-, -, ⟨v, hv, -⟩, hd⟩ := hcol hp
  match i with
  | 0 => exact ⟨v, hv⟩
  | i + 1 =>
    obtain ⟨v, hv, -⟩ := hd (i + 1) (by omega) hi
    exact ⟨v, hv⟩

theorem read_appended (b : Byte) (s : State C) (i : Nat) :
    (appended b s).buf.read i = if i = s.rcount.toNat then some b else s.buf.read i := Memory.read_write _ _ _ _

/-- After the store both states hold the same written bytes up to the new one, so no draw plays a part. -/
theorem SameMessage.bufAt_appended (h : SameMessage s s') (hs : Sound s) (hp : s.pstate = .collect) (b : Byte) {i : Nat}
    (hi : i < s.rcount.toNat + 1) : bufAt (appended b s') i = bufAt (appended b s) i := by
  have hread : (appended b s').buf.read i = (appended b s).buf.read i := by
    rw [read_appended, read_appended, h.rcount]
    split
    · rfl
    · exact h.bytes i (by omega)
  obtain ⟨v, hv⟩ : ∃ v, (appended b s).buf.read i = some v := by
    rw [read_appended]
    split
    · exact ⟨b, rfl⟩
    · exact hs.collect_written hp (by omega)
  rw [bufAt_of_read hv, bufAt_of_read (hread.trans hv)]

/-- Both states complete the message on the byte, or neither does. -/
theorem SameMessage.messageComplete_eq (h : SameMessage s s') (b : Byte) :
    messageComplete (appended b s') = messageComplete (appended b s) := by
  have hn : (appended b s').rcount = (appended b s).rcount := congrArg (· + 1) h.rcount
  have hk : (appended b s').pkind = (appended b s).pkind := h.pkind
  rw [messageComplete, messageComplete, hn, hk]

theorem SameMessage.effect_drop (h : SameMessage s s') (c : Cause) :
    SameEffect s (drop c (prologue s)) s' (drop c (prologue s')) :=
  ⟨rfl, h.pstate, h.pkind, h.rcount, rfl, .inr ⟨rfl, rfl⟩, .inl ⟨rfl, rfl⟩⟩

theorem SameMessage.effect_abort (h : SameMessage s s') (c : Cause) :
    SameEffect s (abort c (prologue s)) s' (abort c (prologue s')) :=
  ⟨rfl, rfl, h.pkind, rfl, rfl, .inr ⟨rfl, rfl⟩, .inl ⟨rfl, rfl⟩⟩

/-- A status byte that opens a message is stored at offset 0; PKIND is written, or kept by both states. -/
theorem sameEffect_openMessage {k k' : PKind} (hk : k' = k) (p : PState) (b : Byte) :
    SameEffect s (openMessage p b { prologue s with pkind := k }) s'
      (openMessage p b { prologue s' with pkind := k' }) :=
  ⟨rfl, rfl, hk, rfl, rfl, .inr ⟨rfl, rfl⟩, .inr ⟨0, b, rfl, rfl⟩⟩

/-- The byte stored at RCOUNT goes to the same offset. -/
theorem SameMessage.same_write (h : SameMessage s s') (b : Byte) :
    ∃ o v, s.buf.write s.rcount.toNat b = s.buf.write o v ∧ s'.buf.write s'.rcount.toNat b = s'.buf.write o v :=
  ⟨s.rcount.toNat, b, rfl, by rw [h.rcount]⟩

theorem SameMessage.effect_appended (h : SameMessage s s') (b : Byte) :
    SameEffect s (appended b s) s' (appended b s') :=
  ⟨rfl, h.pstate, h.pkind, congrArg (· + 1) h.rcount, rfl, .inr ⟨rfl, rfl⟩, .inr (h.same_write b)⟩

theorem SameMessage.effect_complete (h : SameMessage s s') (hs : Sound s) (hp : s.pstate = .collect) (b : Byte)
    (hlen : s.rcount.toNat + 1 = s.pkind.len) :
    SameEffect s (toIdle (emit (messageEvent (appended b s)) (appended b s))) s'
      (toIdle (emit (messageEvent (appended b s')) (appended b s'))) :=
  have hev : messageEvent (appended b s') = messageEvent (appended b s) :=
    messageEvent_congr h.pkind fun _ hi => h.bufAt_appended hs hp b (hi.trans_eq hlen.symm)
  ⟨hev, rfl, h.pkind, rfl, rfl, .inr ⟨rfl, rfl⟩, .inr (h.same_write b)⟩

theorem SameMessage.effect_frameCompleted (h : SameMessage s s') :
    SameEffect s (frameCompleted s) s' (frameCompleted s') :=
  have hn : s'.rcount + 1 = s.rcount + 1 := congrArg (· + 1) h.rcount
  ⟨congrArg (Event.mk .sysex 0 0 0) hn, rfl, h.pkind, rfl, rfl, .inl hn, .inr (h.same_write 0xF7#8)⟩

/-- The rule that takes the byte from one state takes it from the other, to the same effect. -/
theorem FramerStep.congr (h : FramerStep s b t) (hs : Sound s) (ha : SameMessage s s') :
    ∃ t', FramerStep s' b t' ∧ SameEffect s t s' t' := by
  have hps {p : PState} (hp : s.pstate = p) : s'.pstate = p := ha.pstate.trans hp
  have hr : s'.rcount.toNat = s.rcount.toNat := congrArg _ ha.rcount
  have hm := ha.messageComplete_eq b
  cases h with
  | idleData hp hb => exact ⟨_, .idleData (hps hp) hb, ha.effect_drop _⟩
  | idlePc hp hb => exact ⟨_, .idlePc (hps hp) hb, sameEffect_openMessage rfl _ b⟩
  | idleCc hp hb => exact ⟨_, .idleCc (hps hp) hb, sameEffect_openMessage rfl _ b⟩
  | idleSox hp hb => exact ⟨_, .idleSox (hps hp) hb, sameEffect_openMessage ha.pkind _ b⟩
  | idleAs hp hb =>
    exact ⟨_, .idleAs (hps hp) hb, rfl, ha.pstate, ha.pkind, ha.rcount, rfl, .inr ⟨rfl, rfl⟩, .inl ⟨rfl, rfl⟩⟩
  | idleUnk hp hb => exact ⟨_, .idleUnk (hps hp) hb, ha.effect_drop _⟩
  | colData hp hb hc hopen =>
    exact ⟨_, .colData (hps hp) hb (hr.trans_lt hc) (hm.trans hopen), ha.effect_appended b⟩
  | colComplete hp hb hc hfull =>
    exact ⟨_, .colComplete (hps hp) hb (hr.trans_lt hc) (hm.trans hfull),
      ha.effect_complete hs hp b ((messageComplete_appended b hc).1 hfull)⟩
  | colStatus hp hb => exact ⟨_, .colStatus (hps hp) hb, ha.effect_abort _⟩
  | sxOverflow hp hc => exact ⟨_, .sxOverflow (hps hp) (hr.trans hc), ha.effect_abort _⟩
  | sxData hp hc hb => exact ⟨_, .sxData (hps hp) (hr.trans_lt hc) hb, ha.effect_appended b⟩
  | sxEox hp hc hb => exact ⟨_, .sxEox (hps hp) (hr.trans_lt hc) hb, ha.effect_frameCompleted⟩
  | sxStatus hp hc hb => exact ⟨_, .sxStatus (hps hp) (hr.trans_ne hc) hb, ha.effect_abort _⟩

/-- Settles O24: both steps run the same rule, to the same effect. -/
theorem framerStepIsDeterministic : Obligations.FramerStepIsDeterministic := by
  intro s s' b rest rest' hs hin hin' hps hk hr hb
  obtain ⟨t, ht⟩ := (hs.withInputs rest).framerStep b
  obtain ⟨t', ht', he⟩ := ht.congr (s' := { s' with inputs := rest' }) (hs.withInputs rest) ⟨hps, hk, hr, hb⟩
  refine ⟨t, t', stepAt_of_framerStep hin ht, stepAt_of_framerStep hin' ht', he.ev, he.pstate, he.pkind, he.rcount,
    he.fvalid, he.flen, ?_⟩
  rcases he.buf with ⟨hbuf, hbuf'⟩ | ⟨o, v, hbuf, hbuf'⟩
  · exact .inl ⟨fun i => by rw [hbuf], fun i => by rw [hbuf']⟩
  · refine .inr ⟨o, bufSameBut_of_write hbuf, bufSameBut_of_write hbuf', ?_, ?_⟩
    · rw [hbuf, hbuf', Memory.read_write_same, Memory.read_write_same]
    · rw [hbuf, Memory.read_write_same]
      exact Option.some_ne_none v

/-! ### Channel messages from IDLE (R118) -/

/-- A message of this kind is open with these bytes collected. -/
def messageOpen (s : State C) (k : PKind) (bs : List Byte) : Prop :=
  s.pstate = .collect ∧ s.pkind = k ∧ s.rcount.toNat = bs.length ∧ s.buf.holds bs

theorem stepAt_idle_pc (hp : s.pstate = .idle) (hb : typeField b = 0xC#4) (hf : feeds s (b :: bs) rest) :
    ∃ t, stepAt s = .next t ∧ t.ev = Event.empty ∧ messageOpen t .pc [b] ∧ feeds t bs rest := by
  obtain ⟨hs, hin⟩ := FramerStep.step_of_feeds hf (.idlePc hp hb)
  exact ⟨_, hs, rfl, ⟨rfl, rfl, count_one, Memory.holds_write_zero _ _⟩, hin⟩

theorem stepAt_idle_cc (hp : s.pstate = .idle) (hb : typeField b = 0xB#4) (hf : feeds s (b :: bs) rest) :
    ∃ t, stepAt s = .next t ∧ t.ev = Event.empty ∧ messageOpen t .cc [b] ∧ feeds t bs rest := by
  obtain ⟨hs, hin⟩ := FramerStep.step_of_feeds hf (.idleCc hp hb)
  exact ⟨_, hs, rfl, ⟨rfl, rfl, count_one, Memory.holds_write_zero _ _⟩, hin⟩

/-- A data byte in IDLE is dropped: no message opens (R101). -/
theorem stepAt_idle_data (hp : s.pstate = .idle) (hb : isStatus b = false) (hf : feeds s (b :: bs) rest) :
    ∃ t, stepAt s = .next t ∧ t.ev = Event.empty ∧ t.pstate = .idle ∧ feeds t bs rest := by
  obtain ⟨hs, hin⟩ := FramerStep.step_of_feeds hf (.idleData hp hb)
  exact ⟨_, hs, rfl, hp, hin⟩

/-- A data byte extends an open message, whatever its length becomes. -/
theorem messageOpen_appended {k : PKind} (h : messageOpen s k bs) (hc : bs.length < C.bytes) (b : Byte) :
    messageOpen (appended b s) k (bs ++ [b]) := by
  obtain ⟨hp, hk, hn, hb⟩ := h
  refine ⟨hp, hk, ?_, ?_⟩
  · rw [List.length_append, List.length_singleton, ← hn]
    exact count_succ (hn ▸ hc)
  · simpa only [appended, countUp_buf, hn] using Memory.holds_write_length hb b

/-- A data byte short of the message's length leaves it open (R107). -/
theorem stepAt_collect_data {k : PKind} {cs : List Byte} (h : messageOpen s k bs) (hb : isStatus b = false)
    (hlt : bs.length + 1 < k.len) (hf : feeds s (b :: cs) rest) :
    ∃ t, stepAt s = .next t ∧ t.ev = Event.empty ∧ messageOpen t k (bs ++ [b]) ∧ feeds t cs rest := by
  have hc : bs.length < C.bytes := by have := k.len_le_bytes C; omega
  have ho := messageOpen_appended (s := { s with inputs := _ }) h hc b
  obtain ⟨hp, hk, hn, -⟩ := h
  have hc : s.rcount.toNat < C.bytes := hn.trans_lt hc
  have hm := mt (messageComplete_appended b hc).1 (by rw [hn, hk]; exact hlt.ne)
  obtain ⟨hs, hin⟩ := FramerStep.step_of_feeds hf (.colData hp hb hc (Bool.of_not_eq_true hm))
  exact ⟨_, hs, rfl, ho, hin⟩

/-- The data byte at the message's length completes it (R107). -/
theorem stepAt_collect_complete {k : PKind} {cs : List Byte} (h : messageOpen s k bs) (hb : isStatus b = false)
    (hlen : bs.length + 1 = k.len) (hf : feeds s (b :: cs) rest) :
    ∃ t u, stepAt s = .next t ∧ t.ev = messageEvent u ∧ messageOpen u k (bs ++ [b]) ∧ t.pstate = .idle ∧
      feeds t cs rest := by
  have hc : bs.length < C.bytes := by have := k.len_le_bytes C; omega
  have ho := messageOpen_appended (s := { s with inputs := _ }) h hc b
  obtain ⟨hp, hk, hn, -⟩ := h
  have hc : s.rcount.toNat < C.bytes := hn.trans_lt hc
  have hm := (messageComplete_appended b hc).2 (by rw [hn, hk, hlen])
  obtain ⟨hs, hin⟩ := FramerStep.step_of_feeds hf (.colComplete hp hb hc hm)
  exact ⟨_, _, hs, rfl, ho, rfl, hin⟩

/-- The event of a Program Change by its two bytes (R113). -/
theorem messageEvent_pc {ch : BitVec 4} {x : BitVec 7} (h : messageOpen s .pc [0xC#4 ++ ch, 0#1 ++ x]) :
    messageEvent s = ⟨.pc, ch, x, 0, 0⟩ := by
  obtain ⟨-, hk, -, hb⟩ := h
  simp only [messageEvent, hk, pcEvent, bufAt_of_read (hb 0 _ rfl), bufAt_of_read (hb 1 _ rfl)]
  have hch : low4 (0xC#4 ++ ch) = ch := channelField_append _ ch
  have hd : low7 (0#1 ++ x) = x := dataField_append _ x
  rw [hch, hd]
  rfl

/-- The event of a Control Change by its three bytes (R114). -/
theorem messageEvent_cc {ch : BitVec 4} {x y : BitVec 7} (h : messageOpen s .cc [0xB#4 ++ ch, 0#1 ++ x, 0#1 ++ y]) :
    messageEvent s = ⟨.cc, ch, x, y, 0⟩ := by
  obtain ⟨-, hk, -, hb⟩ := h
  simp only [messageEvent, hk, ccEvent, bufAt_of_read (hb 0 _ rfl), bufAt_of_read (hb 1 _ rfl), bufAt_of_read (hb 2 _ rfl)]
  have hch : low4 (0xB#4 ++ ch) = ch := channelField_append _ ch
  have hd (d : BitVec 7) : low7 (0#1 ++ d) = d := dataField_append _ d
  rw [hch, hd, hd]
  rfl

/-- Settles O25: the status byte opens the message, its data bytes complete it, and in IDLE one more is dropped. -/
theorem channelMessagesAreFramed : Obligations.ChannelMessagesAreFramed := by
  intro s ch x y z rest hp
  refine ⟨fun hf => ?_, fun hf => ?_⟩
  · obtain ⟨t1, h1, he1, ho, hf⟩ := stepAt_idle_pc hp (typeField_append _ ch) hf
    obtain ⟨t2, u, h2, he2, ho, hp, hf⟩ := stepAt_collect_complete ho (isStatus_data x) rfl hf
    obtain ⟨t3, h3, he3, hp', hf⟩ := stepAt_idle_data hp (isStatus_data y) hf
    exact ⟨t1, t2, t3, h1, h2, h3, congrArg Event.kind he1, he2.trans (messageEvent_pc ho), hp,
      congrArg Event.kind he3, hp', hf⟩
  · obtain ⟨t1, h1, he1, ho, hf⟩ := stepAt_idle_cc hp (typeField_append _ ch) hf
    obtain ⟨t2, h2, he2, ho, hf⟩ := stepAt_collect_data ho (isStatus_data x) (Nat.lt_succ_self 2) hf
    obtain ⟨t3, u, h3, he3, ho, hp, hf⟩ := stepAt_collect_complete ho (isStatus_data y) rfl hf
    obtain ⟨t4, h4, he4, hp', hf⟩ := stepAt_idle_data hp (isStatus_data z) hf
    exact ⟨t1, t2, t3, t4, h1, h2, h3, h4, congrArg Event.kind he1, congrArg Event.kind he2,
      he3.trans (messageEvent_cc ho), hp, congrArg Event.kind he4, hp', hf⟩

end Sys2Proof.Machine

/-! The decoder's operations one by one (spec/41_decoder.md R142 to R161): the word that spells each, and what it answers
inside the valid frame window. -/

namespace Sys2Proof.Machine

variable {C : Capacity} {i : Instr} {r : BitVec 32} {ok : Bool}

/-! ### Answers inside the window -/

/-- An operation inside the window answers `r` and `ok` where its rule computes them. -/
theorem answers_of_eq {s : State} (hi : i.isDecoder = true) (hv : s.fvalid = true) (h : decoderAnswer s i = (r, ok)) :
    Answers i s r ok := by
  have hopen := answers_of_open hi hv
  rwa [h] at hopen

/-- Inside the window D.ok of an operation is the one its rule computes, whatever D.res is. -/
theorem exists_answers_iff {s : State} (hi : i.isDecoder = true) (hv : s.fvalid = true) :
    (∃ r, Answers i s r ok) ↔ (decoderAnswer s i).2 = ok :=
  ⟨fun ⟨_, h⟩ => (answers_unique (answers_of_open hi hv) h).2, fun h => ⟨_, h ▸ answers_of_open hi hv⟩⟩

/-! ### The bytes of a sound frame (R36 (iv)) -/

section
variable {s : State C}

theorem Sound.flen_bounds (hs : Sound s) (hv : s.fvalid = true) : 2 ≤ s.flen.toNat ∧ s.flen.toNat ≤ C.bytes := by
  obtain ⟨-, -, -, hframe, -⟩ := hs
  obtain ⟨-, h2, hcap, -⟩ := hframe hv
  exact ⟨h2, hcap⟩

theorem Sound.bufAt_first (hs : Sound s) (hv : s.fvalid = true) : bufAt s 0 = 0xF0 := by
  obtain ⟨-, -, -, hframe, -⟩ := hs
  obtain ⟨-, -, -, hfirst, -⟩ := hframe hv
  exact bufAt_of_read hfirst

theorem Sound.bufAt_last (hs : Sound s) (hv : s.fvalid = true) {n : Nat} (hn : n + 1 = s.flen.toNat) :
    bufAt s n = 0xF7 := by
  obtain ⟨-, -, -, hframe, -⟩ := hs
  obtain ⟨-, -, -, -, hlast, -⟩ := hframe hv
  rw [← hn, Nat.add_sub_cancel] at hlast
  exact bufAt_of_read hlast

theorem Sound.bufAt_body_le (hs : Sound s) (hv : s.fvalid = true) {n : Nat} (h1 : 1 ≤ n) (hn : n + 2 ≤ s.flen.toNat) :
    (bufAt s n).toNat ≤ 0x7F := by
  obtain ⟨-, -, -, hframe, -⟩ := hs
  obtain ⟨-, -, -, -, -, hbody⟩ := hframe hv
  obtain ⟨v, hread, hle⟩ := hbody n h1 hn
  rwa [bufAt_of_read hread]

end

/-! ### GETB and GET7 (R142, R143, R151) -/

section
variable {a : BitVec 16} {b : Byte} {s : State}

theorem answers_getb (hv : s.fvalid = true) (hb : byteAt s 0 a.toNat = b) : Answers (.getb a) s (b.setWidth 32) true :=
  answers_of_eq rfl hv (by rw [decoderAnswer, hb])

theorem answers_get7 (hv : s.fvalid = true) (hb : byteAt s 0 a.toNat = b) :
    Answers (.get7 a) s ((b &&& 0x7F).setWidth 32) true :=
  answers_of_eq rfl hv (by rw [decoderAnswer, f7At, hb, low7_eq_mask])

/-- In a sound state with the window open ByteAt reads `0xF0` at the frame's first offset. -/
theorem Sound.byteAt_first (hs : Sound s) (hv : s.fvalid = true) : byteAt s 0 (0 : BitVec 16).toNat = 0xF0 :=
  (byteAt_of_lt hv (Nat.lt_of_lt_of_le Nat.two_pos (hs.flen_bounds hv).1)).trans (hs.bufAt_first hv)

/-- In a sound state with the window open ByteAt reads `0xF7` at the frame's last offset. -/
theorem Sound.byteAt_last (hs : Sound s) (hv : s.fvalid = true) (ha : a.toNat + 1 = s.flen.toNat) :
    byteAt s 0 a.toNat = 0xF7 :=
  (byteAt_of_lt hv (Nat.lt_of_succ_le ha.le)).trans (hs.bufAt_last hv ha)

/-- Settles O34: GETB is the guarded read at `a`; a sound frame begins with `0xF0` and ends with `0xF7`. -/
theorem getbReadsRawByte : Obligations.GetbReadsRawByte :=
  ⟨commandSpells_getb, fun _ _ hv => ⟨fun hlt => answers_getb hv (byteAt_of_lt hv hlt),
    fun hge => answers_getb hv (byteAt_of_ge hge),
    fun hs => ⟨answers_getb hv (hs.byteAt_first hv), fun ha => answers_getb hv (hs.byteAt_last hv ha)⟩⟩⟩

/-- Settles O35: GET7 is the guarded read at `a` under the mask `0x7F`. -/
theorem get7ReadsSevenBits : Obligations.Get7ReadsSevenBits :=
  ⟨commandSpells_get7, fun _ _ hv => ⟨fun hlt => answers_get7 hv (byteAt_of_lt hv hlt),
    fun hge => answers_get7 hv (byteAt_of_ge hge),
    fun hs => ⟨answers_get7 hv (hs.byteAt_first hv), fun ha => answers_get7 hv (hs.byteAt_last hv ha)⟩⟩⟩

theorem and_7F_of_le : ∀ b : Byte, b.toNat ≤ 0x7F → b &&& 0x7F = b := by decide

/-- Settles O50: a body byte is at most `0x7F`, so GET7's mask keeps it. -/
theorem get7EqualsGetbInTheBody : Obligations.Get7EqualsGetbInTheBody := by
  intro a s hs hv h1 ha
  have hb : byteAt s 0 a.toNat = bufAt s a.toNat := byteAt_of_lt hv (by omega)
  have hmask : bufAt s a.toNat &&& 0x7F = bufAt s a.toNat := and_7F_of_le _ (hs.bufAt_body_le hv h1 ha)
  exact ⟨_, answers_getb hv hb, hmask ▸ answers_get7 hv hb⟩

end

/-! ### GET14, GET31 and MFREQ (R144 to R146) -/

section
variable {s : State}

theorem answers_get14 (a : BitVec 16) (hv : s.fvalid = true) :
    Answers (.get14 a) s ((f14At s a.toNat).setWidth 32) true :=
  answers_of_eq rfl hv rfl

theorem answers_get31 (a : BitVec 16) (hv : s.fvalid = true) : Answers (.get31 a) s (f31At s a.toNat) true :=
  answers_of_eq rfl hv rfl

theorem answers_mfreq (b : BitVec 24) (hv : s.fvalid = true) :
    Answers (.mfreq b) s ((mfrOf s).setWidth 32) (mfrOf s == b) :=
  answers_of_eq rfl hv rfl

/-- Settles O36: the field of R81 over two guarded reads, in masks and shifts. -/
theorem get14ReadsBigEndian : Obligations.Get14ReadsBigEndian :=
  ⟨commandSpells_get14, fun a _ hv => field14_eq_formula _ _ ▸ answers_get14 a hv⟩

/-- Settles O37: the field of R82 over five guarded reads, in masks and shifts. -/
theorem get31ReadsBigEndian : Obligations.Get31ReadsBigEndian :=
  ⟨commandSpells_get31, fun a _ hv => field31_eq_formula _ _ _ _ _ ▸ answers_get31 a hv⟩

/-- Settles O38: the manufacturer ID of R84 over three guarded reads, in shifts, and its comparison with `b`. -/
theorem mfreqComparesManufacturer : Obligations.MfreqComparesManufacturer :=
  ⟨commandSpells_mfreq, fun b s hv => by
    dsimp only
    rw [← field24_eq_formula]
    exact answers_mfreq b hv⟩

end

/-! ### XORCK and GETLEN (R147, R148) -/

section
variable {s : State}

theorem answers_xorck (hv : s.fvalid = true) (h2 : 2 ≤ s.flen.toNat) :
    Answers .xorck s ((computedChecksum s).setWidth 32) (computedChecksum s == bufAt s (s.flen.toNat - 2)) :=
  answers_of_eq rfl hv (if_pos h2)

/-- Settles O39: the computed checksum is the fold over the offsets below FLEN-2, in 7 bits. -/
theorem xorckChecksTheFrame : Obligations.XorckChecksTheFrame :=
  ⟨commandSpells_xorck, fun s hv h2 => by
    dsimp only
    rw [← xorBelow_eq_foldl]
    exact answers_xorck hv h2⟩

/-- Settles O40: GETLEN answers FLEN, which R36 (iv) bounds. -/
theorem getlenReadsFlen : Obligations.GetlenReadsFlen :=
  ⟨commandSpells_getlen, fun s hv =>
    ⟨answers_of_eq rfl hv (by rw [decoderAnswer, BitVec.ofNat_toNat]), fun hs => hs.flen_bounds hv⟩⟩

end

/-! ### BLKCNT and BLKOFF (R155, R157) -/

section
variable {s : State}

theorem hasBlockHeader_of_le (h : 6 ≤ s.flen.toNat) : hasBlockHeader s = true := decide_eq_true h

theorem hasBlockHeader_of_lt (h : s.flen.toNat < 6) : hasBlockHeader s ≠ true := by
  simpa [hasBlockHeader] using h

theorem answers_blkcnt (hv : s.fvalid = true) (h6 : 6 ≤ s.flen.toNat) :
    Answers .blkcnt s (BitVec.ofNat 32 (blockCount s)) true :=
  answers_of_eq rfl hv (if_pos (hasBlockHeader_of_le h6))

/-- Settles O41: one clause for each side of FLEN = 6. -/
theorem blkcntCountsChunks : Obligations.BlkcntCountsChunks :=
  ⟨commandSpells_blkcnt, fun _ hv => ⟨answers_blkcnt hv,
    fun hlt => answers_of_eq rfl hv (if_neg (hasBlockHeader_of_lt hlt))⟩⟩

/-- Settles O42: found below the count, not found from it on, and draws below FLEN = 6. -/
theorem blkoffBoundsTheIndex : Obligations.BlkoffBoundsTheIndex := by
  refine ⟨commandSpells_blkoff, fun a s hv => ⟨fun h6 hlt => ?_, fun h6 hge => ?_, fun hlt => ?_⟩⟩
  · have hfits : 6 + 5 * a.toNat < 2 ^ 32 := by have := a.isLt; omega
    exact ⟨BitVec.ofNat 32 (6 + 5 * a.toNat), Nat.mod_eq_of_lt hfits,
      answers_of_eq rfl hv ((if_pos (hasBlockHeader_of_le h6)).trans (if_pos hlt))⟩
  · exact answers_of_eq rfl hv ((if_pos (hasBlockHeader_of_le h6)).trans (if_neg (Nat.not_lt.2 hge)))
  · exact answers_of_eq rfl hv (if_neg (hasBlockHeader_of_lt hlt))

end

/-! ### MULTI14 and MULTI31 (R158, R159) -/

section
variable {s : State} {a : BitVec 16}

theorem fieldFits_iff (o w : Nat) : fieldFits s o w = true ↔ o + w ≤ s.flen.toNat := decide_eq_true_iff

theorem answers_multi14 (hv : s.fvalid = true) (h : multi14Offset a.toNat + 2 ≤ s.flen.toNat) :
    Answers (.multi14 a) s ((field14 (bufAt s (multi14Offset a.toNat)) (bufAt s (multi14Offset a.toNat + 1))).setWidth 32)
      true :=
  answers_of_eq rfl hv (if_pos ((fieldFits_iff _ _).2 h))

theorem answers_multi14_notFound (hv : s.fvalid = true) (h : s.flen.toNat < multi14Offset a.toNat + 2) :
    Answers (.multi14 a) s 0 false :=
  answers_of_eq rfl hv (if_neg (mt (fieldFits_iff _ _).1 (Nat.not_le.2 h)))

theorem answers_multi31 (hv : s.fvalid = true) (h : multi31Offset a.toNat + 5 ≤ s.flen.toNat) :
    Answers (.multi31 a) s
      (field31 (bufAt s (multi31Offset a.toNat)) (bufAt s (multi31Offset a.toNat + 1))
        (bufAt s (multi31Offset a.toNat + 2)) (bufAt s (multi31Offset a.toNat + 3))
        (bufAt s (multi31Offset a.toNat + 4))) true :=
  answers_of_eq rfl hv (if_pos ((fieldFits_iff _ _).2 h))

theorem answers_multi31_notFound (hv : s.fvalid = true) (h : s.flen.toNat < multi31Offset a.toNat + 5) :
    Answers (.multi31 a) s 0 false :=
  answers_of_eq rfl hv (if_neg (mt (fieldFits_iff _ _).1 (Nat.not_le.2 h)))

/-- Settles O43: one clause for each side of the bound check, the value in masks and shifts (R81). -/
theorem multi14BoundsTheIndex : Obligations.Multi14BoundsTheIndex :=
  ⟨commandSpells_multi14, fun _ _ hv =>
    ⟨answers_multi14_notFound hv, fun h => field14_eq_formula _ _ ▸ answers_multi14 hv h⟩⟩

/-- Settles O44: one clause for each side of the bound check, the value in masks and shifts (R82). -/
theorem multi31BoundsTheIndex : Obligations.Multi31BoundsTheIndex :=
  ⟨commandSpells_multi31, fun _ _ hv =>
    ⟨answers_multi31_notFound hv, fun h => field31_eq_formula _ _ _ _ _ ▸ answers_multi31 hv h⟩⟩

end

/-! ### STRLEN (R161) -/

/-- All the string measure can do: it counts at most its limit, only bytes before the frame's last that are not `0x00`,
and stops at the limit, at the frame's last byte, or at a `0x00`. -/
theorem stringCount_spec (room : StrRoom) (a m : Nat) (s : State C) :
    stringCount room a m s ≤ stringLimit room m ∧
    (∀ j, j < stringCount room a m s → a + j + 1 < s.flen.toNat ∧ bufAt s (a + j) ≠ 0x00) ∧
    (stringCount room a m s = stringLimit room m ∨ s.flen.toNat ≤ a + stringCount room a m s + 1 ∨
      bufAt s (a + stringCount room a m s) = 0x00) := by
  obtain ⟨hroom, hcount, hstop⟩ := scanString_spec s a (min (stringLimit room m) (s.flen.toNat - 1 - a))
  rw [← stringCount] at hroom hcount hstop
  refine ⟨by omega, fun j hj => ⟨by omega, hcount j hj⟩, ?_⟩
  rcases hstop with hstop | hstop
  · omega
  · exact .inr (.inr hstop)

/-- The limit of R161 in the spec's words: `max_len - 1`, or 0 for `max_len` 0, or `max_len`. -/
theorem stringLimit_eq (room : StrRoom) (m : Nat) :
    stringLimit room m = match room with
      | .maxlenMinus1 => if m = 0 then 0 else m - 1
      | .maxlen => m := by
  cases room
  · change m - 1 = if m = 0 then 0 else m - 1
    split <;> omega
  · rfl

theorem stringLimit_le (room : StrRoom) (m : Nat) : stringLimit room m ≤ m := by
  cases room
  · exact Nat.sub_le m 1
  · exact le_rfl

theorem terminatorAt_iff {s : State C} (o : Nat) :
    terminatorAt s o = true ↔ o + 1 < s.flen.toNat ∧ bufAt s o = 0x00 := by
  simp [terminatorAt]

/-- Settles O45: the answer is the string measure's, which fits D.res as `max_len` has 24 bits. -/
theorem strlenMeasuresTheString : Obligations.StrlenMeasuresTheString := by
  refine ⟨commandSpells_strlen, fun a b s hv => ?_⟩
  dsimp only
  obtain ⟨hlimit, hcount, hstop⟩ := stringCount_spec Config.strRoom a.toNat b.toNat s
  have hfits : stringCount Config.strRoom a.toNat b.toNat s < 2 ^ 32 := by
    have := stringLimit_le Config.strRoom b.toNat
    have := b.isLt
    omega
  have hans := answers_of_eq (i := .strlen a b) rfl hv rfl
  rw [stringLimit_eq] at hlimit hstop
  exact ⟨_, _, _, (BitVec.toNat_ofNat _ _).trans (Nat.mod_eq_of_lt hfits), hans, hlimit, hcount, hstop, terminatorAt_iff _⟩

end Sys2Proof.Machine

/-! What a decoder result depends on (spec/41_decoder.md R140, R154): FLEN, the bytes of the frame, the operands and the
draws, none of which a decoder step writes. -/

namespace Sys2Proof.Machine

variable {C : Capacity} {s t u : State C}

/-! ### States that agree on a frame -/

/-- Two states with one FLEN that read one written byte at an offset read the same there, whatever their draws. -/
theorem bufAt_congr_of_written {k : Nat} (h : t.buf.read k = s.buf.read k) (hw : s.buf.read k ≠ none) :
    bufAt t k = bufAt s k := by
  obtain ⟨b, hb⟩ := Option.ne_none_iff_exists'.1 hw
  rw [bufAt_of_read hb, bufAt_of_read (h.trans hb)]

/-- States with one draw counter that list the same byte at an offset, or both none, read the same there. -/
theorem bufAt_congr_of_draws {k : Nat} (h : t.buf.read k = s.buf.read k) (hd : t.draws = s.draws) :
    bufAt t k = bufAt s k := by
  rw [bufAt, bufAt, h, hd]

/-- States with open windows, one FLEN and one draw counter that read the same bytes inside the frame agree on every
guarded read: inside it on the byte, past it on the draw. -/
theorem byteAt_congr (hs : s.fvalid = true) (ht : t.fvalid = true) (hl : t.flen = s.flen) (hd : t.draws = s.draws)
    (hat : ∀ k, k < s.flen.toNat → bufAt t k = bufAt s k) (j k : Nat) : byteAt t j k = byteAt s j k := by
  by_cases hk : k < s.flen.toNat
  · rw [byteAt_of_lt hs hk, byteAt_of_lt ht (hl ▸ hk), hat k hk]
  · rw [byteAt_of_ge (Nat.not_lt.1 hk), byteAt_of_ge (hl ▸ Nat.not_lt.1 hk), hd]

/-- A decoder step inside the window writes its rule's answer. -/
theorem decoderStep_next_open {r : Answer} (hv : s.fvalid = true) (h : decoderStep s r = .next t) : (t.dres, t.dok) = r := by
  obtain ⟨u, hu, hres, hok, -⟩ := decoderStep_open (r := r) hv
  rw [h] at hu
  cases hu
  rw [hres, hok]

/-- Settles O46: the two states agree on every read, and on the draws, so the operation's rule computes one answer. -/
theorem decoderSeesOnlyTheFrame : Obligations.DecoderSeesOnlyTheFrame := by
  intro i s s' t t' hi hv hv' hl hd hread ht ht'
  rw [exec_decoder _ hi] at ht ht'
  have hat (k) (hk : k < s.flen.toNat) : bufAt s' k = bufAt s k := bufAt_congr_of_draws (hread k hk) hd
  have hdraw : drawAnswer s' = drawAnswer s := by rw [drawAnswer, drawAnswer, hd]
  have hanswer : decoderAnswer s' i = decoderAnswer s i :=
    decoderAnswer_congr hl hat (fun j k _ _ => byteAt_congr hv hv' hl hd hat j k) (.inl hdraw)
  exact Prod.ext_iff.1 <| calc
    (t'.dres, t'.dok) = decoderAnswer s' i := decoderStep_next_open hv' ht'
    _ = decoderAnswer s i := hanswer
    _ = (t.dres, t.dok) := (decoderStep_next_open hv ht).symm

/-! ### Rows of decoder operations -/

theorem decoderKeeps.refl (s : State C) : decoderKeeps s s := ⟨rfl, rfl, rfl, fun _ => rfl, rfl, rfl, rfl, rfl⟩

theorem decoderKeeps.trans (h : decoderKeeps s t) (h' : decoderKeeps t u) : decoderKeeps s u := by
  obtain ⟨hp, hk, hr, hb, hl, hv, hin, hc⟩ := h
  obtain ⟨hp', hk', hr', hb', hl', hv', hin', hc'⟩ := h'
  exact ⟨hp'.trans hp, hk'.trans hk, hr'.trans hr, fun i => (hb' i).trans (hb i), hl'.trans hl, hv'.trans hv,
    hin'.trans hin, hc'.trans hc⟩

/-- Every row of decoder operations completes and keeps what one decoder step keeps. -/
theorem execAll_decoder {js : List Instr} (hjs : ∀ j ∈ js, j.isDecoder = true) (s : State) :
    ∃ u, execAll js s = some u ∧ decoderKeeps s u := by
  induction js generalizing s with
  | nil => exact ⟨s, rfl, decoderKeeps.refl s⟩
  | cons j js ih =>
    rw [List.forall_mem_cons] at hjs
    obtain ⟨hj, hjs⟩ := hjs
    obtain ⟨t, ht, hst, -⟩ := decoderStepKeepsFramer j s hj
    obtain ⟨u, hu, htu⟩ := ih hjs t
    exact ⟨u, by rw [execAll, ht]; exact hu, hst.trans htu⟩

/-- Where no draw is involved, a state that keeps the frame gives the operation the same answer, whatever its draws. -/
theorem decoderAnswer_congr_of_drawFree {i : Instr} {s u : State} (hf : drawFree i s) (h : decoderKeeps s u) :
    decoderAnswer u i = decoderAnswer s i := by
  obtain ⟨hv, h2, hwritten, hreads, h6⟩ := hf
  obtain ⟨-, -, -, hread, hl, hvu, -, -⟩ := h
  have hat (k) (hk : k < s.flen.toNat) : bufAt u k = bufAt s k := bufAt_congr_of_written (hread k) (hwritten k hk)
  refine decoderAnswer_congr hl hat (fun j k _ hk => ?_) (.inr ⟨h2, h6⟩)
  have hk : k < s.flen.toNat := by omega
  rw [byteAt_of_lt hv hk, byteAt_of_lt (hvu.trans hv) (hl ▸ hk), hat k hk]

/-- Settles O47: the operation and the row after it keep the frame, so the operation's rule computes the same again. -/
theorem repeatedCommandAgrees : Obligations.RepeatedCommandAgrees := by
  intro i s hi hf
  have ⟨hv, _⟩ := hf
  obtain ⟨t, ht, hres, hok, hst⟩ := answers_of_open hi hv
  refine ⟨t, ht, fun js hjs => ?_⟩
  obtain ⟨u, hu, htu⟩ := execAll_decoder hjs t
  have hsu := hst.trans htu
  have hvu : u.fvalid = true := by
    obtain ⟨-, -, -, -, -, hvu, -, -⟩ := hsu
    exact hvu.trans hv
  obtain ⟨v, hv, hres', hok', -⟩ := answers_of_open hi hvu
  rw [decoderAnswer_congr_of_drawFree hf hsu] at hres' hok'
  exact ⟨u, v, hu, hv, hres'.trans hres.symm, hok'.trans hok.symm⟩

end Sys2Proof.Machine

/-! Values that come back whole from a frame (spec/41_decoder.md R149 to R160): the fields of split values, what stands
where in the layouts of R85 to R90, and what the decoder's operations answer on them. -/

namespace Sys2Proof.Machine

/-! ### The fields of split values (R80 to R84) -/

section
variable {w : Nat}

@[simp] theorem low7_append (x : BitVec 1) (d : BitVec 7) : low7 (x ++ d) = d := BitVec.extractLsb'_append_eq_right

@[simp] theorem low4_append (x d : BitVec 4) : low4 (x ++ d) = d := BitVec.extractLsb'_append_eq_right

/-- The low 7 bits of `(v >> k) & 0x7F` are the bits of `v` from `k` on. -/
theorem low7_shift_mask (v : BitVec w) (k : Nat) : low7 ((v >>> k).setWidth 8 &&& 0x7F) = v.extractLsb' k 7 := by
  apply BitVec.eq_of_getLsbD_eq
  intro i hi
  simp only [low7, BitVec.getLsbD_extractLsb', BitVec.getLsbD_and, BitVec.getLsbD_setWidth, BitVec.getLsbD_ushiftRight]
  interval_cases i <;> simp

/-- The low 4 bits of `(v >> k) & 0x0F` are the bits of `v` from `k` on. -/
theorem low4_shift_mask (v : BitVec w) (k : Nat) : low4 ((v >>> k).setWidth 8 &&& 0x0F) = v.extractLsb' k 4 := by
  apply BitVec.eq_of_getLsbD_eq
  intro i hi
  simp only [low4, BitVec.getLsbD_extractLsb', BitVec.getLsbD_and, BitVec.getLsbD_setWidth, BitVec.getLsbD_ushiftRight]
  interval_cases i <;> simp

/-- The low 7 bits of `v & 0x7F`. -/
theorem low7_mask (v : BitVec w) : low7 (v.setWidth 8 &&& 0x7F) = v.extractLsb' 0 7 := low7_shift_mask v 0

/-- Two bytes whose low 7 bits are the halves of a 14-bit value carry it (R81). -/
theorem field14_eq {x y : Byte} {v : BitVec 14} (hx : low7 x = v.extractLsb' 7 7) (hy : low7 y = v.extractLsb' 0 7) :
    field14 x y = v := by
  rw [field14, hx, hy]
  exact BitVec.extractLsb'_append_extractLsb'

/-- Five bytes whose low 4 and low 7 bits are the parts of a 32-bit value carry it (R82). -/
theorem field31_eq {x0 x1 x2 x3 x4 : Byte} {v : BitVec 32} (h0 : low4 x0 = v.extractLsb' 28 4)
    (h1 : low7 x1 = v.extractLsb' 21 7) (h2 : low7 x2 = v.extractLsb' 14 7) (h3 : low7 x3 = v.extractLsb' 7 7)
    (h4 : low7 x4 = v.extractLsb' 0 7) : field31 x0 x1 x2 x3 x4 = v := by
  rw [field31, h0, h1, h2, h3, h4, BitVec.extractLsb'_append_extractLsb'_eq_extractLsb' (show 28 = 21 + 7 from rfl),
    BitVec.extractLsb'_append_extractLsb'_eq_extractLsb' (show 21 = 14 + 7 from rfl),
    BitVec.extractLsb'_append_extractLsb'_eq_extractLsb' (show 14 = 7 + 7 from rfl)]
  exact BitVec.extractLsb'_append_extractLsb'

/-- Three bytes make up a manufacturer ID exactly when they are the bytes it splits into (R84). -/
theorem field24_eq_iff (x y z : Byte) (m : BitVec 24) : field24 x y z = m ↔ [x, y, z] = splitId m := by
  constructor
  · rintro rfl
    have hx : (x ++ y ++ z).extractLsb' 16 8 = x := by
      rw [BitVec.extractLsb'_append_eq_of_le (by decide)]
      exact BitVec.extractLsb'_append_eq_left
    have hy : (x ++ y ++ z).extractLsb' 8 8 = y := by
      rw [BitVec.extractLsb'_append_eq_of_le (by decide)]
      exact BitVec.extractLsb'_append_eq_right
    have hz : (x ++ y ++ z).extractLsb' 0 8 = z := BitVec.extractLsb'_append_eq_right
    rw [splitId, field24, hx, hy, hz]
  · intro h
    simp only [splitId, List.cons.injEq, and_true] at h
    obtain ⟨rfl, rfl, rfl⟩ := h
    rw [field24, BitVec.extractLsb'_append_extractLsb'_eq_extractLsb' (show 16 = 8 + 8 from rfl)]
    exact BitVec.extractLsb'_append_extractLsb'

end

/-! ### Bytes of BUF in a row -/

section
variable {C : Capacity} {s : State C} {o : Nat} {b : Byte} {as bs cs : List Byte}

/-- BUF reads as these bytes from offset `o` on. -/
def readsAs (s : State C) (o : Nat) (bs : List Byte) : Prop := ∀ j b, bs[j]? = some b → bufAt s (o + j) = b

/-- A frame that BUF holds is read whole from offset 0 on. -/
theorem readsAs_of_holdsFrame (h : holdsFrame s bs) : readsAs s 0 bs := fun j _ hj =>
  (Nat.zero_add j).symm ▸ bufAt_of_holdsFrame h hj

theorem readsAs.left (h : readsAs s o (as ++ bs)) : readsAs s o as := fun j b hj =>
  h j b (by rw [List.getElem?_append_left (List.getElem?_eq_some_iff.1 hj).1, hj])

theorem readsAs.right (h : readsAs s o (as ++ bs)) : readsAs s (o + as.length) bs := fun j b hj => by
  rw [Nat.add_assoc]
  exact h _ b (by rw [List.getElem?_append_right (Nat.le_add_right _ _), Nat.add_sub_cancel_left, hj])

/-- The bytes in the middle of a frame that BUF holds. -/
theorem readsAs_mid (h : holdsFrame s (as ++ (bs ++ cs))) (ho : as.length = o) : readsAs s o bs := by
  have := (readsAs_of_holdsFrame h).right.left
  rwa [ho, Nat.zero_add] at this

/-- Values that split into `k` bytes each take `k` bytes per value. -/
theorem length_flatMap_of_length {α : Type} {f : α → List Byte} {k : Nat} (hf : ∀ v, (f v).length = k) (vs : List α) :
    (vs.flatMap f).length = k * vs.length := by
  simp [List.length_flatMap, hf, Nat.mul_comm]

theorem length_split14 (v : BitVec 14) : (split14 v).length = 2 := rfl

theorem length_split31 (v : BitVec 32) : (split31 v).length = 5 := rfl

/-- Value `i` of a row of values that split into `k` bytes each stands `k * i` bytes on. -/
theorem readsAs.value {α : Type} {f : α → List Byte} {k i : Nat} {vs : List α} {v : α} (h : readsAs s o (vs.flatMap f))
    (hf : ∀ v, (f v).length = k) (hi : vs[i]? = some v) : readsAs s (o + k * i) (f v) := by
  obtain ⟨hlt, rfl⟩ := List.getElem?_eq_some_iff.1 hi
  rw [← List.take_append_drop i vs, ← List.getElem_cons_drop hlt, List.flatMap_append, List.flatMap_cons] at h
  have htake : ((vs.take i).flatMap f).length = k * i := by
    rw [length_flatMap_of_length hf, List.length_take_of_le hlt.le]
  exact htake ▸ h.right.left

theorem field14_of_readsAs {v : BitVec 14} (h : readsAs s o (split14 v)) : field14 (bufAt s o) (bufAt s (o + 1)) = v :=
  have h0 := h 0 _ rfl
  field14_eq (h0 ▸ low7_append _ _) (by rw [h 1 _ rfl, low7_append])

theorem field31_of_readsAs {v : BitVec 32} (h : readsAs s o (split31 v)) :
    field31 (bufAt s o) (bufAt s (o + 1)) (bufAt s (o + 2)) (bufAt s (o + 3)) (bufAt s (o + 4)) = v :=
  have h0 := h 0 _ rfl
  field31_eq (h0 ▸ low4_append _ _) (by rw [h 1 _ rfl, low7_append]) (by rw [h 2 _ rfl, low7_append])
    (by rw [h 3 _ rfl, low7_append]) (by rw [h 4 _ rfl, low7_append])

end

/-! ### Fields inside the frame -/

section
variable {C : Capacity} {s : State C} {o : Nat}

theorem f14At_of_le (hv : s.fvalid = true) (h : o + 2 ≤ s.flen.toNat) :
    f14At s o = field14 (bufAt s o) (bufAt s (o + 1)) := by
  rw [f14At, byteAt_of_lt hv (by omega), byteAt_of_lt hv (by omega)]

theorem f31At_of_le (hv : s.fvalid = true) (h : o + 5 ≤ s.flen.toNat) :
    f31At s o = field31 (bufAt s o) (bufAt s (o + 1)) (bufAt s (o + 2)) (bufAt s (o + 3)) (bufAt s (o + 4)) := by
  rw [f31At, byteAt_of_lt hv (by omega), byteAt_of_lt hv (by omega), byteAt_of_lt hv (by omega),
    byteAt_of_lt hv (by omega), byteAt_of_lt hv (by omega)]

end

/-- GET14 inside the frame answers the value that its two bytes carry. -/
theorem answers_get14_of_field {s : State} {a : BitVec 16} {v : BitVec 14} (hv : s.fvalid = true)
    (hl : a.toNat + 2 ≤ s.flen.toNat) (h : field14 (bufAt s a.toNat) (bufAt s (a.toNat + 1)) = v) :
    Answers (.get14 a) s (v.setWidth 32) true := by
  rw [← h, ← f14At_of_le hv hl]
  exact answers_get14 a hv

/-! ### Kemper frames (R89, R90) -/

/-- The fixed part of a Kemper frame, in front of its address (R89). -/
def kemperHead (func : BitVec 7) : List Byte := [0xF0, 0x00, 0x20, 0x33, 0x02, 0x7F, sevenBit func, 0x00]

/-- A Kemper frame is its fixed part, its address, its payload and `0xF7`. -/
theorem kemperFrame_eq (func : BitVec 7) (address payload : List Byte) :
    kemperFrame func address payload = kemperHead func ++ (address ++ (payload ++ [0xF7])) := by
  simp [kemperFrame, kemperHead, taggedFrame, sysexFrame, splitId, kemperId]

section
variable {C : Capacity} {s : State C} {func : BitVec 7} {address payload : List Byte}
  (h : holdsFrame s (kemperFrame func address payload))
include h

theorem flen_of_kemperFrame : s.flen.toNat = 9 + address.length + payload.length := by
  obtain ⟨-, hlen, -⟩ := h
  rw [hlen, kemperFrame_eq]
  simp only [kemperHead, List.length_append, List.length_cons, List.length_nil]
  omega

/-- The address of a Kemper frame stands at offset 8. -/
theorem address_of_kemperFrame : readsAs s 8 address := by
  rw [kemperFrame_eq] at h
  exact readsAs_mid h rfl

/-- The payload of a Kemper frame stands after its address. -/
theorem payload_of_kemperFrame : readsAs s (8 + address.length) payload := by
  rw [kemperFrame_eq, ← List.append_assoc] at h
  exact readsAs_mid h (by rw [List.length_append]; rfl)

end

/-- Settles O48: GET14 assembles the two halves of the value, wherever they stand in the frame. -/
theorem fourteenBitRoundTrip : Obligations.FourteenBitRoundTrip := by
  refine ⟨fun a v s hv hl h0 h1 => ?_, fun f addr v s hf => ?_⟩
  · refine answers_get14_of_field hv (by omega) (field14_eq ?_ ?_)
    · rw [bufAt_of_read h0, low7_shift_mask]
    · rw [bufAt_of_read h1, low7_mask]
  · have hlen : s.flen.toNat = 13 := flen_of_kemperFrame hf
    have ⟨hv, _⟩ := hf
    exact ⟨answers_get14_of_field hv (hlen.symm ▸ by decide) (field14_of_readsAs (address_of_kemperFrame hf)),
      answers_get14_of_field hv (hlen.symm ▸ by decide) (field14_of_readsAs (payload_of_kemperFrame hf))⟩

/-- Settles O49: GET31 and MULTI31 assemble the five parts of the value at one offset. -/
theorem thirtyOneBitRoundTrip : Obligations.ThirtyOneBitRoundTrip := by
  intro a v s hv hl h0 h1 h2 h3 h4
  have hfield : field31 (bufAt s a.toNat) (bufAt s (a.toNat + 1)) (bufAt s (a.toNat + 2)) (bufAt s (a.toNat + 3))
      (bufAt s (a.toNat + 4)) = v := by
    rw [bufAt_of_read h0, bufAt_of_read h1, bufAt_of_read h2, bufAt_of_read h3, bufAt_of_read h4]
    exact field31_eq (low4_shift_mask v 28) (low7_shift_mask v 21) (low7_shift_mask v 14) (low7_shift_mask v 7) (low7_mask v)
  have hl : a.toNat + 5 ≤ s.flen.toNat := by omega
  constructor
  · rw [← hfield, ← f31At_of_le hv hl]
    exact answers_get31 a hv
  · intro i hi
    rw [← multi31Offset] at hi
    rw [hi] at hfield hl
    exact hfield ▸ answers_multi31 hv hl

/-- Settles O54: value `i` stands at the offset that MULTI14 and MULTI31 compute, and `0xF7` keeps index N out. -/
theorem multiReadsYieldAllValues : Obligations.MultiReadsYieldAllValues := by
  constructor
  · intro s f addr vs hf i
    have ⟨hv, _⟩ := hf
    have hlen : s.flen.toNat = 11 + 2 * vs.length :=
      (flen_of_kemperFrame hf).trans (by rw [length_flatMap_of_length length_split14]; rfl)
    refine ⟨fun v hi => ?_, fun hi => answers_multi14_notFound hv (by rw [multi14Offset]; omega)⟩
    have hlt := (List.getElem?_eq_some_iff.1 hi).1
    have hfield := field14_of_readsAs ((payload_of_kemperFrame hf).value length_split14 hi)
    exact hfield ▸ answers_multi14 hv (by rw [multi14Offset]; omega)
  · intro s f addr vs hf i
    have ⟨hv, _⟩ := hf
    have hlen : s.flen.toNat = 14 + 5 * vs.length :=
      (flen_of_kemperFrame hf).trans (by rw [length_flatMap_of_length length_split31]; rfl)
    refine ⟨fun v hi => ?_, fun hi => answers_multi31_notFound hv (by rw [multi31Offset]; omega)⟩
    have hlt := (List.getElem?_eq_some_iff.1 hi).1
    have hfield := field31_of_readsAs ((payload_of_kemperFrame hf).value length_split31 hi)
    exact hfield ▸ answers_multi31 hv (by rw [multi31Offset]; omega)

/-! ### Manufacturer checks (R84, R152) -/

/-- The guarded reads of MFREQ on a frame of at least four bytes. -/
theorem mfrOf_of_holdsFrame {C : Capacity} {s : State C} {w x y z : Byte} {bs : List Byte}
    (h : holdsFrame s (w :: x :: y :: z :: bs)) : mfrOf s = field24 x y z := by
  have ⟨hv, hlen, _⟩ := h
  simp only [List.length_cons] at hlen
  have hread (k j : Nat) {b : Byte} (hj : j < s.flen.toNat) (hb : (w :: x :: y :: z :: bs)[j]? = some b) :
      byteAt s k j = b := (byteAt_of_lt hv hj).trans (bufAt_of_holdsFrame h hb)
  rw [mfrOf, hread 0 1 (by omega) rfl, hread 1 2 (by omega) rfl, hread 2 3 (by omega) rfl]

/-- MFREQ accepts a frame that begins with `0xF0` exactly when the bytes of the ID follow. -/
theorem mfreq_accepts_iff {s : State} {bs : List Byte} (h : holdsFrame s bs) (h0 : bs[0]? = some 0xF0)
    (h4 : 4 ≤ bs.length) (m : BitVec 24) :
    (∃ r, Answers (.mfreq m) s r true) ↔ bs.take 4 = 0xF0 :: splitId m := by
  match bs, h4 with
  | w :: x :: y :: z :: bs, _ =>
    obtain rfl : w = 0xF0 := Option.some.inj h0
    have ⟨hv, _⟩ := h
    calc (∃ r, Answers (.mfreq m) s r true) ↔ decide (mfrOf s = m) = true := exists_answers_iff rfl hv
      _ ↔ field24 x y z = m := by rw [decide_eq_true_iff, mfrOf_of_holdsFrame h]
      _ ↔ [x, y, z] = splitId m := field24_eq_iff x y z m
      _ ↔ (0xF0 :: x :: y :: z :: bs).take 4 = 0xF0 :: splitId m := (List.cons_inj_right _).symm

/-- Settles O51: the two IDs split into the vendor's bytes. -/
theorem manufacturerCheckIsExact : Obligations.ManufacturerCheckIsExact := fun _ _ h h0 h4 =>
  ⟨mfreq_accepts_iff h h0 h4 0x000174, mfreq_accepts_iff h h0 h4 0x002033⟩

/-! ### AxeFx frames: the checksum and the effect-block count (R85 to R87, R153, R156) -/

theorem xorAll_append_singleton (bs : List Byte) (b : Byte) : xorAll (bs ++ [b]) = xorAll bs ^^^ b := by
  rw [xorAll, List.foldl_append]
  rfl

/-- The running XOR of R147 over bytes that BUF reads from offset 0 on is their XOR. -/
theorem xorBelow_eq_xorAll {C : Capacity} {s : State C} {bs : List Byte} (h : readsAs s 0 bs) :
    xorBelow s bs.length = xorAll bs := by
  induction bs using List.reverseRecOn with
  | nil => rfl
  | append_singleton bs b ih =>
    have hb : bufAt s bs.length = b := by simpa using h.right 0 b rfl
    rw [List.length_append, List.length_singleton, xorBelow, ih h.left, hb, xorAll_append_singleton]

/-- A mask of an XOR is the XOR of the masked bytes. -/
theorem xor_and_distrib (x y m : Byte) : (x ^^^ y) &&& m = (x &&& m) ^^^ (y &&& m) :=
  BitVec.eq_of_getLsbD_eq fun _ _ => by
    simp only [BitVec.getLsbD_and, BitVec.getLsbD_xor, Bool.and_xor_distrib_right]

theorem and_80_of_le : ∀ b : Byte, b.toNat ≤ 0x7F → b &&& 0x80 = 0#8 := by decide

theorem xor_and_7F_self (x : Byte) : x ^^^ (x &&& 0x7F#8) = x &&& 0x80 := by
  revert x; decide

/-- Bytes at most `0x7F` leave bit 7 of a running XOR as it is. -/
theorem foldl_xor_and_80 {bs : List Byte} (h : ∀ b ∈ bs, b.toNat ≤ 0x7F) (x : Byte) :
    bs.foldl (· ^^^ ·) x &&& 0x80 = x &&& 0x80 := by
  induction bs generalizing x with
  | nil => rfl
  | cons b bs ih =>
    rw [List.forall_mem_cons] at h
    obtain ⟨hb, hbs⟩ := h
    rw [List.foldl_cons, ih hbs, xor_and_distrib, and_80_of_le b hb, BitVec.xor_zero]

theorem sevenBit_le (d : BitVec 7) : (sevenBit d).toNat ≤ 0x7F := by
  revert d; decide

/-- The bytes of an AxeFx frame before its checksum: `0xF0`, and body bytes at most `0x7F`. -/
theorem xorAll_axefxHead_and_80 (model func : BitVec 7) {payload : List Byte} (h : ∀ b ∈ payload, b.toNat ≤ 0x7F) :
    xorAll (axefxHead model func payload) &&& 0x80 = 0x80 := by
  refine foldl_xor_and_80 (x := 0 ^^^ 0xF0) (fun b hb => ?_)
  rcases List.mem_append.1 hb with hb | hb
  · have hid : ∀ b ∈ splitId axefxId, b.toNat ≤ 0x7F := by decide
    rcases List.mem_append.1 hb with hb | hb
    · exact hid b hb
    · simp only [List.mem_cons, List.not_mem_nil, or_false] at hb
      rcases hb with rfl | rfl <;> exact sevenBit_le _
  · exact h b hb

section
variable {C : Capacity} {s : State C} {model func : BitVec 7} {payload : List Byte}
  (h : holdsFrame s (axefxFrame model func payload))
include h

theorem flen_of_axefxFrame : s.flen.toNat = (axefxHead model func payload).length + 2 := by
  obtain ⟨-, hlen, -⟩ := h
  rw [hlen, axefxFrame, List.length_append]
  rfl

/-- On an AxeFx frame XORCK computes the checksum that R86 computed. -/
theorem computedChecksum_of_axefxFrame :
    computedChecksum s = axefxChecksum (axefxHead model func payload) := by
  rw [computedChecksum, flen_of_axefxFrame h, Nat.add_sub_cancel,
    xorBelow_eq_xorAll (readsAs_of_holdsFrame h).left, axefxChecksum]

/-- On an AxeFx frame that checksum stands at FLEN-2. -/
theorem bufAt_checksum_of_axefxFrame :
    bufAt s (s.flen.toNat - 2) = axefxChecksum (axefxHead model func payload) := by
  have hck := (readsAs_of_holdsFrame h).right 0 _ rfl
  rwa [flen_of_axefxFrame h, Nat.add_sub_cancel, ← Nat.zero_add (axefxHead model func payload).length]

end

/-- Settles O52: the byte at FLEN-2 is the checksum that XORCK computes, and the XOR with it leaves bit 7, which only
`0xF0` sets. -/
theorem checksumVerifiesItself : Obligations.ChecksumVerifiesItself := by
  intro s model func payload hp hf
  have ⟨hv, _⟩ := hf
  have hlen := flen_of_axefxFrame hf
  constructor
  · have hck := answers_xorck hv (by omega)
    rw [bufAt_checksum_of_axefxFrame hf, ← computedChecksum_of_axefxFrame hf, beq_self_eq_true] at hck
    exact ⟨_, hck⟩
  · have htake : (axefxFrame model func payload).take (s.flen.toNat - 1) =
        axefxHead model func payload ++ [axefxChecksum (axefxHead model func payload)] := by
      rw [axefxFrame, List.append_cons]
      exact List.take_left' (by rw [List.length_append, hlen]; rfl)
    rw [htake, xorAll_append_singleton, axefxChecksum, xor_and_7F_self, xorAll_axefxHead_and_80 _ _ hp]

/-- Settles O53: the frame has eight bytes beside its chunks of five. -/
theorem effectBlockCountIsExact : Obligations.EffectBlockCountIsExact := by
  intro s model func chunks hf
  have ⟨hv, _⟩ := hf
  have hlen : s.flen.toNat = 8 + 5 * chunks.length := by
    rw [flen_of_axefxFrame hf, ← length_flatMap_of_length (fun c : Vector Byte 5 => c.length_toList) chunks, axefxHead]
    simp only [splitId, List.length_append, List.length_cons, List.length_nil]
    omega
  have hcount : blockCount s = chunks.length := by
    rw [blockCount]
    omega
  exact ⟨hlen, hcount ▸ answers_blkcnt hv (by omega), by omega⟩

end Sys2Proof.Machine

/-! The reset step (spec/70_reset_and_hazards.md R220, R221). -/

namespace Sys2Proof.Machine

variable {C : Capacity}

/-- Where nothing is written, a byte of BUF reads as its free value (R26, log 6). -/
theorem bufAt_of_read_none {s : State C} {i : Nat} (h : s.buf.read i = none) :
    bufAt s i = Config.bufInit s.draws i := by
  rw [bufAt, h, Option.getD_none]

/-- A reset step leaves no byte of BUF written, so each reads as a draw of the state that the step gives. -/
theorem bufAt_resetStep (s : State C) (i : Nat) :
    bufAt (resetStep s) i = Config.bufInit (resetStep s).draws i :=
  bufAt_of_read_none (by rw [resetStep_buf, Memory.read])

/-- Settles O2: a step on RESET is `resetStep`, whichever message or window the state was in. -/
theorem resetStepRestoresState : Obligations.ResetStepRestoresState := fun s rest hin =>
  have hstep : step s = .next (resetStep { s with inputs := rest }) := stepAt_of_reset hin
  ⟨_, hstep, resetStep_pstate _, resetStep_rcount _, resetStep_flen _, resetStep_fvalid _, resetStep_ev _,
    resetStep_dres _, resetStep_dok _, bufAt_resetStep _⟩

end Sys2Proof.Machine

/-! Words that the spec writes out (spec/95_test_vectors.md), by what they encode. -/

namespace Sys2Proof.Machine

/-- The word that an instruction encodes to decodes to it, in a context that can select it. -/
theorem decode_of_encode_eq {i : Instr} {p : PortWord} (c : RxContext) (he : encode i = p) (hw : i.wellFormed = true)
    (hs : i.selectableIn c = true) : decode c p = .ok i :=
  he ▸ decodeOfEncode i c hw hs

/-- Settles O11: each command and each byte is what its instruction encodes to, but for E11's GETLEN, which ignores the
operand fields that are set in its word. -/
theorem specWordsDecode : Obligations.SpecWordsDecode := by
  refine ⟨?get7, ?mfreq, ?strlen, ?multi14, ?blkoff, ?xorck, ?getlen, ?idlePc, ?idleAs, ?idleUnk, ?colData, ?sxEox,
    ?sxOverflow⟩
  case getlen => exact commandSpells_getlen .idle 0xFFFFFFFFFF0C rfl rfl
  all_goals exact decode_of_encode_eq _ rfl rfl rfl

end Sys2Proof.Machine
